-- ==== Sys2Proof/Word.lean ====
section
/-! DEFINITION. The word types of the core (spec/00_scope.md rules R9 to R12, R25): every value is unsigned. -/

namespace Sys2Proof

/-- A byte of memory, a general register or a timer (R9, R12, R18). -/
abbrev Byte := BitVec 8

/-- The instruction word, the index register, the program counter, a stack entry (R10, R11, R15, R100). -/
abbrev Word := BitVec 16

/-- The address field `nnn` of an instruction word (R101). -/
abbrev Addr12 := BitVec 12

/-- A general register's number, 0 to 15 (R9): `V0` to `VF`. -/
abbrev Reg := Fin 16

/-- A 4-bit field read as a number, 0 to 15: the trailing nibble `n`, a key index, an ignored nibble (R101, R17). -/
abbrev Nibble := Fin 16

/-- The flag register `VF`, register number 15 (R32, R34). -/
abbrev VF : Reg := 15

end Sys2Proof
end

