-- ==== Sys2Proof/Syntax.lean ====
section
/-! DEFINITION. The instructions: one constructor per row of spec/opcode_table.json (spec/30_encoding.md rules R106 to
R110, R117), the three no-op fallback rows among them. A field the dispatcher ignores in an instruction that has an
effect (R112) is not part of the instruction; a no-op word keeps its bits, because a disassembler prints it whole
(R116). -/

namespace Sys2Proof

/-- An instruction, as the dispatcher selects it. -/
inductive Instr where
  /-- `00E0` CLS (R221). -/
  | cls
  /-- `00EE` RET (R153). -/
  | ret
  /-- `0nnn` SYS addr, the no-op under leading nibble 0 (R137). -/
  | sys (nnn : Addr12)
  /-- `1nnn` JP addr (R154). -/
  | jp (nnn : Addr12)
  /-- `2nnn` CALL addr (R155). -/
  | call (nnn : Addr12)
  /-- `3xkk` SE Vx, byte (R156). -/
  | seVxByte (x : Reg) (kk : Byte)
  /-- `4xkk` SNE Vx, byte (R157). -/
  | sneVxByte (x : Reg) (kk : Byte)
  /-- `5xy0` SE Vx, Vy (R158). -/
  | seVxVy (x y : Reg)
  /-- `6xkk` LD Vx, byte (R171). -/
  | ldVxByte (x : Reg) (kk : Byte)
  /-- `7xkk` ADD Vx, byte (R172). -/
  | addVxByte (x : Reg) (kk : Byte)
  /-- `8xy0` LD Vx, Vy (R173). -/
  | ldVxVy (x y : Reg)
  /-- `8xy1` OR Vx, Vy (R174). -/
  | orVxVy (x y : Reg)
  /-- `8xy2` AND Vx, Vy (R175). -/
  | andVxVy (x y : Reg)
  /-- `8xy3` XOR Vx, Vy (R176). -/
  | xorVxVy (x y : Reg)
  /-- `8xy4` ADD Vx, Vy (R177). -/
  | addVxVy (x y : Reg)
  /-- `8xy5` SUB Vx, Vy (R178). -/
  | subVxVy (x y : Reg)
  /-- `8xy6` SHR Vx {, Vy} (R179). -/
  | shrVxVy (x y : Reg)
  /-- `8xy7` SUBN Vx, Vy (R180). -/
  | subnVxVy (x y : Reg)
  /-- `8xyE` SHL Vx {, Vy} (R181). -/
  | shlVxVy (x y : Reg)
  /-- `9xy0` SNE Vx, Vy (R159). -/
  | sneVxVy (x y : Reg)
  /-- `Annn` LD I, addr (R200). -/
  | ldIAddr (nnn : Addr12)
  /-- `Bnnn` JP V0, addr (R160). -/
  | jpV0Addr (nnn : Addr12)
  /-- `Cxkk` RND Vx, byte (R182). -/
  | rnd (x : Reg) (kk : Byte)
  /-- `Dxyn` DRW Vx, Vy, nibble (R222). -/
  | drw (x y : Reg) (n : Nibble)
  /-- `Ex9E` SKP Vx (R241). -/
  | skp (x : Reg)
  /-- `ExA1` SKNP Vx (R242). -/
  | sknp (x : Reg)
  /-- `Fx07` LD Vx, DT (R244). -/
  | ldVxDt (x : Reg)
  /-- `Fx0A` LD Vx, K (R243). -/
  | ldVxK (x : Reg)
  /-- `Fx15` LD DT, Vx (R245). -/
  | ldDtVx (x : Reg)
  /-- `Fx18` LD ST, Vx (R246). -/
  | ldStVx (x : Reg)
  /-- `Fx1E` ADD I, Vx (R201). -/
  | addIVx (x : Reg)
  /-- `Fx29` LD F, Vx (R202). -/
  | ldFVx (x : Reg)
  /-- `Fx33` LD B, Vx (R203). -/
  | ldBVx (x : Reg)
  /-- `Fx55` LD [I], Vx (R204). -/
  | ldMiVx (x : Reg)
  /-- `Fx65` LD Vx, [I] (R205). -/
  | ldVxMi (x : Reg)
  /-- No-op under leading nibble 8 (R108, R111, R136): `8xyn` with n in 8 to D or F. -/
  | nopT8 (x y n : Nibble)
  /-- No-op under leading nibble E (R109, R111, R136): `Exmn` with n neither 1 nor E. -/
  | nopTe (x m n : Nibble)
  /-- No-op under leading nibble F (R110, R111, R136): `Fxkk` with kk not in the table. -/
  | nopTf (x : Nibble) (kk : Byte)
  deriving DecidableEq, Repr

end Sys2Proof
end

