-- ==== Sys2Proof/WellFormed.lean ====
section
/-! DEFINITION. Which terms of `Instr` are instructions of the core. Field ranges are carried by the field types
(spec/30_encoding.md rule R103: no field is ever out of range); what is left to check is that a no-op term lies in the
no-op space of rule R111, since outside it the same word selects another handler. -/

namespace Sys2Proof

/-- The low bytes that table TF gives an instruction (R110). -/
def tfSelectors : List Byte := [0x07, 0x0A, 0x15, 0x18, 0x1E, 0x29, 0x33, 0x55, 0x65]

/-- The low nibbles that table T8 gives an instruction (R108). -/
def t8Selectors : List Nibble := [0, 1, 2, 3, 4, 5, 6, 7, 14]

/-- The low nibbles that table TE gives an instruction (R109). -/
def teSelectors : List Nibble := [1, 14]

/-- The low nibbles that table T0 gives an instruction (R107). -/
def t0Selectors : List Nibble := [0, 14]

/-- The low nibble of an address field, as a number. -/
def lowNibble (nnn : Addr12) : Nibble := ⟨nnn.toNat % 16, Nat.mod_lt _ (by decide)⟩

/-- A term stands for a word of the core: a no-op term carries selector bits of the no-op space (R111). -/
def Instr.wellFormed : Instr → Bool
  | .sys nnn     => !(t0Selectors.contains (lowNibble nnn))
  | .nopT8 _ _ n => !(t8Selectors.contains n)
  | .nopTe _ _ n => !(teSelectors.contains n)
  | .nopTf _ kk  => !(tfSelectors.contains kk)
  | .cls | .ret | .jp _ | .call _ | .seVxByte _ _ | .sneVxByte _ _ | .seVxVy _ _ | .ldVxByte _ _ | .addVxByte _ _
  | .ldVxVy _ _ | .orVxVy _ _ | .andVxVy _ _ | .xorVxVy _ _ | .addVxVy _ _ | .subVxVy _ _ | .shrVxVy _ _
  | .subnVxVy _ _ | .shlVxVy _ _ | .sneVxVy _ _ | .ldIAddr _ | .jpV0Addr _ | .rnd _ _ | .drw _ _ _ | .skp _
  | .sknp _ | .ldVxDt _ | .ldVxK _ | .ldDtVx _ | .ldStVx _ | .addIVx _ | .ldFVx _ | .ldBVx _ | .ldMiVx _
  | .ldVxMi _ => true

end Sys2Proof
end

