-- ==== Sys2Proof/Decode.lean ====
section
/-! DEFINITION. The dispatcher as a total function from words to instructions (spec/30_encoding.md rules R100 to R113,
spec/40_cycle_dispatch.md rule R133), the encoder, and the opcode table as a list of rows. -/

namespace Sys2Proof

/-! ### Fields (R101) -/

/-- A 4-bit field as a number. -/
def nibbleOf (b : BitVec 4) : Nibble := ⟨b.toNat, b.isLt⟩

/-- A number 0 to 15 as a 4-bit field. -/
def nibbleBits (n : Nibble) : BitVec 4 := BitVec.ofNat 4 n.val

/-- `op`, the leading nibble, w[15:12]. -/
def opField (w : Word) : Nibble := nibbleOf (w.extractLsb' 12 4)

/-- `x`, w[11:8]. -/
def xField (w : Word) : Nibble := nibbleOf (w.extractLsb' 8 4)

/-- `y`, w[7:4]. -/
def yField (w : Word) : Nibble := nibbleOf (w.extractLsb' 4 4)

/-- `n`, the trailing nibble, w[3:0]. -/
def nField (w : Word) : Nibble := nibbleOf (w.extractLsb' 0 4)

/-- `kk`, the byte literal, w[7:0]. -/
def kkField (w : Word) : Byte := w.extractLsb' 0 8

/-- `nnn`, the address, w[11:0]. -/
def nnnField (w : Word) : Addr12 := w.extractLsb' 0 12

/-! ### Dispatch (R104, R105) -/

/-- Table T0, selected by w[3:0] (R107). -/
def decodeT0 (w : Word) : Instr :=
  match (nField w).val with
  | 0x0 => .cls
  | 0xE => .ret
  | _   => .sys (nnnField w)

/-- Table T8, selected by w[3:0] (R108). -/
def decodeT8 (w : Word) : Instr :=
  match (nField w).val with
  | 0x0 => .ldVxVy (xField w) (yField w)
  | 0x1 => .orVxVy (xField w) (yField w)
  | 0x2 => .andVxVy (xField w) (yField w)
  | 0x3 => .xorVxVy (xField w) (yField w)
  | 0x4 => .addVxVy (xField w) (yField w)
  | 0x5 => .subVxVy (xField w) (yField w)
  | 0x6 => .shrVxVy (xField w) (yField w)
  | 0x7 => .subnVxVy (xField w) (yField w)
  | 0xE => .shlVxVy (xField w) (yField w)
  | _   => .nopT8 (xField w) (yField w) (nField w)

/-- Table TE, selected by w[3:0] (R109). -/
def decodeTe (w : Word) : Instr :=
  match (nField w).val with
  | 0xE => .skp (xField w)
  | 0x1 => .sknp (xField w)
  | _   => .nopTe (xField w) (yField w) (nField w)

/-- Table TF, selected by the low byte w[7:0] (R110). -/
def decodeTf (w : Word) : Instr :=
  match (kkField w).toNat with
  | 0x07 => .ldVxDt (xField w)
  | 0x0A => .ldVxK (xField w)
  | 0x15 => .ldDtVx (xField w)
  | 0x18 => .ldStVx (xField w)
  | 0x1E => .addIVx (xField w)
  | 0x29 => .ldFVx (xField w)
  | 0x33 => .ldBVx (xField w)
  | 0x55 => .ldMiVx (xField w)
  | 0x65 => .ldVxMi (xField w)
  | _    => .nopTf (xField w) (kkField w)

/-- The primary table, selected by w[15:12] (R106): total over all 65536 words and a function of the word alone (R113,
R133). -/
def decodeWord (w : Word) : Instr :=
  match (opField w).val with
  | 0x0 => decodeT0 w
  | 0x1 => .jp (nnnField w)
  | 0x2 => .call (nnnField w)
  | 0x3 => .seVxByte (xField w) (kkField w)
  | 0x4 => .sneVxByte (xField w) (kkField w)
  | 0x5 => .seVxVy (xField w) (yField w)
  | 0x6 => .ldVxByte (xField w) (kkField w)
  | 0x7 => .addVxByte (xField w) (kkField w)
  | 0x8 => decodeT8 w
  | 0x9 => .sneVxVy (xField w) (yField w)
  | 0xA => .ldIAddr (nnnField w)
  | 0xB => .jpV0Addr (nnnField w)
  | 0xC => .rnd (xField w) (kkField w)
  | 0xD => .drw (xField w) (yField w) (nField w)
  | 0xE => decodeTe w
  | _   => decodeTf w

/-- Why a byte sequence holds no instruction: the core has no illegal word (R113), so the only reason is its length. -/
inductive DecodeError where
  /-- Fewer than the two bytes of a word (R100). -/
  | truncated
  deriving DecidableEq, Repr

/-- The word of two bytes in memory order: the byte at the lower address is w[15:8] (R73). -/
def wordOfBytes (hi lo : Byte) : Word := hi ++ lo

/-- The two bytes of a word in memory order (R73). -/
def bytesOfWord (w : Word) : List Byte := [w.extractLsb' 8 8, w.extractLsb' 0 8]

/-- The instruction at the head of a byte sequence, and the bytes after it (R73, R100). -/
def decodeBytes : List Byte → Except DecodeError (Instr × List Byte)
  | hi :: lo :: rest => .ok (decodeWord (wordOfBytes hi lo), rest)
  | [_] => .error .truncated
  | []  => .error .truncated

/-- The opcode table's numbering: bit 0 is the least significant bit of the instruction's one 16-bit word. The word is
laid out big-endian and decoded. -/
def decodeTableWord (nbits w : Nat) : Option Instr :=
  match decodeBytes (bytesOfWord (BitVec.ofNat 16 (w % 2 ^ nbits))) with
  | .ok (i, _) => some i
  | .error _   => none

/-! ### Encoding (R102, R106 to R110) -/

/-- Format A: op, nnn. -/
def wordA (op : BitVec 4) (nnn : Addr12) : Word := op ++ nnn

/-- Formats XK and XB: op, x, kk. -/
def wordXK (op : BitVec 4) (x : Nibble) (kk : Byte) : Word := op ++ (nibbleBits x ++ kk)

/-- Formats XY, XYN and XS: op, x, y, n. -/
def wordXYN (op : BitVec 4) (x y n : Nibble) : Word := op ++ (nibbleBits x ++ (nibbleBits y ++ nibbleBits n))

/-- The word of an instruction: the canonical word of tables R106 to R110, ignored bits as the canonical word has
them. -/
def encode : Instr → Word
  | .cls            => wordA 0x0 0x0E0
  | .ret            => wordA 0x0 0x0EE
  | .sys nnn        => wordA 0x0 nnn
  | .jp nnn         => wordA 0x1 nnn
  | .call nnn       => wordA 0x2 nnn
  | .seVxByte x kk  => wordXK 0x3 x kk
  | .sneVxByte x kk => wordXK 0x4 x kk
  | .seVxVy x y     => wordXYN 0x5 x y 0x0
  | .ldVxByte x kk  => wordXK 0x6 x kk
  | .addVxByte x kk => wordXK 0x7 x kk
  | .ldVxVy x y     => wordXYN 0x8 x y 0x0
  | .orVxVy x y     => wordXYN 0x8 x y 0x1
  | .andVxVy x y    => wordXYN 0x8 x y 0x2
  | .xorVxVy x y    => wordXYN 0x8 x y 0x3
  | .addVxVy x y    => wordXYN 0x8 x y 0x4
  | .subVxVy x y    => wordXYN 0x8 x y 0x5
  | .shrVxVy x y    => wordXYN 0x8 x y 0x6
  | .subnVxVy x y   => wordXYN 0x8 x y 0x7
  | .shlVxVy x y    => wordXYN 0x8 x y 0xE
  | .sneVxVy x y    => wordXYN 0x9 x y 0x0
  | .ldIAddr nnn    => wordA 0xA nnn
  | .jpV0Addr nnn   => wordA 0xB nnn
  | .rnd x kk       => wordXK 0xC x kk
  | .drw x y n      => wordXYN 0xD x y n
  | .skp x          => wordXYN 0xE x 0x9 0xE
  | .sknp x         => wordXYN 0xE x 0xA 0x1
  | .ldVxDt x       => wordXK 0xF x 0x07
  | .ldVxK x        => wordXK 0xF x 0x0A
  | .ldDtVx x       => wordXK 0xF x 0x15
  | .ldStVx x       => wordXK 0xF x 0x18
  | .addIVx x       => wordXK 0xF x 0x1E
  | .ldFVx x        => wordXK 0xF x 0x29
  | .ldBVx x        => wordXK 0xF x 0x33
  | .ldMiVx x       => wordXK 0xF x 0x55
  | .ldVxMi x       => wordXK 0xF x 0x65
  | .nopT8 x y n    => wordXYN 0x8 x y n
  | .nopTe x m n    => wordXYN 0xE x m n
  | .nopTf x kk     => wordXK 0xF x kk

/-- The bytes of an instruction as they lie in memory. -/
def encodeBytes (i : Instr) : List Byte := bytesOfWord (encode i)

/-- The canonical word among the words that select the same handler with the same operands (R112): the bits the
dispatcher ignores take the values of the canonical words `00E0`, `00EE`, `5xy0`, `9xy0`, `Ex9E`, `ExA1`. -/
def canonicalWord (w : Word) : Word :=
  match (opField w).val, (nField w).val with
  | 0x0, 0x0 => 0x00E0
  | 0x0, 0xE => 0x00EE
  | 0x5, _   => w &&& 0xFFF0
  | 0x9, _   => w &&& 0xFFF0
  | 0xE, 0xE => (w &&& 0xFF0F) ||| 0x0090
  | 0xE, 0x1 => (w &&& 0xFF0F) ||| 0x00A0
  | _, _     => w

/-! ### The opcode table as data (spec/opcode_table.json) -/

/-- One row: a word matches when its bits under `mask` are `value`; a fallback row applies only when no other row
matches (R111). -/
structure OpcodeRow where
  mnemonic : String
  value    : Word
  mask     : Word
  fallback : Bool
  deriving DecidableEq, Repr

/-- The word has the row's fixed bits. -/
def OpcodeRow.matchesWord (r : OpcodeRow) (w : Word) : Bool := (w &&& r.mask) == r.value

/-- The table's rows under leading nibbles 0 to 7. -/
def opcodeRowsLow : List OpcodeRow :=
  [ ⟨"CLS", 0x0000, 0xF00F, false⟩, ⟨"RET", 0x000E, 0xF00F, false⟩, ⟨"SYS", 0x0000, 0xF000, true⟩,
    ⟨"JP", 0x1000, 0xF000, false⟩, ⟨"CALL", 0x2000, 0xF000, false⟩, ⟨"SE_VX_BYTE", 0x3000, 0xF000, false⟩,
    ⟨"SNE_VX_BYTE", 0x4000, 0xF000, false⟩, ⟨"SE_VX_VY", 0x5000, 0xF000, false⟩,
    ⟨"LD_VX_BYTE", 0x6000, 0xF000, false⟩, ⟨"ADD_VX_BYTE", 0x7000, 0xF000, false⟩ ]

/-- The table's rows under leading nibble 8. -/
def opcodeRows8 : List OpcodeRow :=
  [ ⟨"LD_VX_VY", 0x8000, 0xF00F, false⟩, ⟨"OR", 0x8001, 0xF00F, false⟩, ⟨"AND", 0x8002, 0xF00F, false⟩,
    ⟨"XOR", 0x8003, 0xF00F, false⟩, ⟨"ADD_VX_VY", 0x8004, 0xF00F, false⟩, ⟨"SUB", 0x8005, 0xF00F, false⟩,
    ⟨"SHR", 0x8006, 0xF00F, false⟩, ⟨"SUBN", 0x8007, 0xF00F, false⟩, ⟨"SHL", 0x800E, 0xF00F, false⟩ ]

/-- The table's rows under leading nibbles 9 to D. -/
def opcodeRowsMid : List OpcodeRow :=
  [ ⟨"SNE_VX_VY", 0x9000, 0xF000, false⟩, ⟨"LD_I_ADDR", 0xA000, 0xF000, false⟩,
    ⟨"JP_V0_ADDR", 0xB000, 0xF000, false⟩, ⟨"RND", 0xC000, 0xF000, false⟩, ⟨"DRW", 0xD000, 0xF000, false⟩ ]

/-- The table's rows under leading nibbles E and F. -/
def opcodeRowsHigh : List OpcodeRow :=
  [ ⟨"SKP", 0xE00E, 0xF00F, false⟩, ⟨"SKNP", 0xE001, 0xF00F, false⟩, ⟨"LD_VX_DT", 0xF007, 0xF0FF, false⟩,
    ⟨"LD_VX_K", 0xF00A, 0xF0FF, false⟩, ⟨"LD_DT_VX", 0xF015, 0xF0FF, false⟩, ⟨"LD_ST_VX", 0xF018, 0xF0FF, false⟩,
    ⟨"ADD_I_VX", 0xF01E, 0xF0FF, false⟩, ⟨"LD_F_VX", 0xF029, 0xF0FF, false⟩, ⟨"LD_B_VX", 0xF033, 0xF0FF, false⟩,
    ⟨"LD_MI_VX", 0xF055, 0xF0FF, false⟩, ⟨"LD_VX_MI", 0xF065, 0xF0FF, false⟩ ]

/-- The no-op rows of the secondary tables T8, TE and TF. -/
def opcodeRowsNop : List OpcodeRow :=
  [ ⟨"NOP_T8", 0x8000, 0xF000, true⟩, ⟨"NOP_TE", 0xE000, 0xF000, true⟩, ⟨"NOP_TF", 0xF000, 0xF000, true⟩ ]

/-- The whole table, in its own order. -/
def opcodeTable : List OpcodeRow := opcodeRowsLow ++ opcodeRows8 ++ opcodeRowsMid ++ opcodeRowsHigh ++ opcodeRowsNop

/-- The rows that apply to a word under the precedence of R111: the matching rows without the fallback mark, or, where
there is none, the matching fallback rows. -/
def applicableRows (w : Word) : List OpcodeRow :=
  match opcodeTable.filter (fun r => !r.fallback && r.matchesWord w) with
  | []      => opcodeTable.filter (fun r => r.fallback && r.matchesWord w)
  | r :: rs => r :: rs

/-- The row of an instruction, by the table's own name for it. -/
def Instr.mnemonic : Instr → String
  | .cls           => "CLS"
  | .ret           => "RET"
  | .sys _         => "SYS"
  | .jp _          => "JP"
  | .call _        => "CALL"
  | .seVxByte _ _  => "SE_VX_BYTE"
  | .sneVxByte _ _ => "SNE_VX_BYTE"
  | .seVxVy _ _    => "SE_VX_VY"
  | .ldVxByte _ _  => "LD_VX_BYTE"
  | .addVxByte _ _ => "ADD_VX_BYTE"
  | .ldVxVy _ _    => "LD_VX_VY"
  | .orVxVy _ _    => "OR"
  | .andVxVy _ _   => "AND"
  | .xorVxVy _ _   => "XOR"
  | .addVxVy _ _   => "ADD_VX_VY"
  | .subVxVy _ _   => "SUB"
  | .shrVxVy _ _   => "SHR"
  | .subnVxVy _ _  => "SUBN"
  | .shlVxVy _ _   => "SHL"
  | .sneVxVy _ _   => "SNE_VX_VY"
  | .ldIAddr _     => "LD_I_ADDR"
  | .jpV0Addr _    => "JP_V0_ADDR"
  | .rnd _ _       => "RND"
  | .drw _ _ _     => "DRW"
  | .skp _         => "SKP"
  | .sknp _        => "SKNP"
  | .ldVxDt _      => "LD_VX_DT"
  | .ldVxK _       => "LD_VX_K"
  | .ldDtVx _      => "LD_DT_VX"
  | .ldStVx _      => "LD_ST_VX"
  | .addIVx _      => "ADD_I_VX"
  | .ldFVx _       => "LD_F_VX"
  | .ldBVx _       => "LD_B_VX"
  | .ldMiVx _      => "LD_MI_VX"
  | .ldVxMi _      => "LD_VX_MI"
  | .nopT8 _ _ _   => "NOP_T8"
  | .nopTe _ _ _   => "NOP_TE"
  | .nopTf _ _     => "NOP_TF"

end Sys2Proof
end

