-- ==== Sys2Proof/Config.lean ====
section
/-! DEFINITION. What is fixed for one core instance (spec/00_scope.md rules R9 to R24), and the free value of the
random-number generator. -/

namespace Sys2Proof

/-- SHIFT_VARIANT (R19): `A` shifts Vx in place, `B` sets Vx to the shifted Vy. -/
inductive ShiftVariant where
  | A
  | B
  deriving DecidableEq, Repr

/-- LDST_VARIANT (R20): what FX55 and FX65 leave in the index register. -/
inductive LdstVariant where
  | keepI
  | advanceI
  deriving DecidableEq, Repr

/-- The construction-time configuration (R3, R46, R48). -/
structure Config where
  shift : ShiftVariant
  ldst  : LdstVariant
  deriving DecidableEq, Repr

/-- The spec's default configuration: A and KEEP_I (R19, R20). -/
def Config.default : Config := { shift := .A, ldst := .keepI }

/-- MEM_SIZE (R12). -/
abbrev memSize : Nat := 4096

/-- PROGRAM_BASE (R13): where the ROM is loaded and where execution begins (R290). -/
abbrev programBase : Nat := 0x200

/-- MAX_ROM_BYTES = MEM_SIZE - PROGRAM_BASE = 3584 (R13). -/
abbrev maxRomBytes : Nat := memSize - programBase

/-- STACK_DEPTH (R15). -/
abbrev stackDepth : Nat := 16

/-- SCREEN_W (R16). -/
abbrev screenW : Nat := 64

/-- SCREEN_H (R16). -/
abbrev screenH : Nat := 32

/-- FREE VALUE (R21, U10): the byte of draw number `draws` of the generator seeded with `seed`. The generator's
algorithm is not in the spec; a model that must hold for every seed treats each draw as a free byte, so this constant
has no body. DESIGN CHOICE, safe: notes/assumptions/1.md. -/
opaque Config.rngByte (seed draws : Nat) : Byte

end Sys2Proof
end

