-- ==== Sys2Proof/Machine/State.lean ====
section
/-! DEFINITION. The machine state as plain data (spec/10_state.md rules R30 to R53), the reasons a step can stop, and
the state after reset (R50, spec/70_reset_and_hazards.md rule R290). -/

namespace Sys2Proof.Machine

/-- Memory as (address, byte) pairs in one canonical form (Memory.wf in Machine/Ops.lean): addresses strictly rising
and below MEM_SIZE, no entry equal to the reset contents, which is what an unlisted address reads as (R40, R50, R70). -/
abbrev Memory := List Host.Cell

/-- The framebuffer `fb[py][px]`, 32 rows of 64 one-bit pixels, true = on (R41, R220). -/
abbrev Framebuffer := Vector (Vector Bool 64) 32

/-- The keypad latch `key[0..15]`, true = pressed (R42). -/
abbrev KeyLatch := Vector Bool 16

/-- The halt reasons (R261). -/
inductive HaltReason where
  /-- Not halted. -/
  | none
  /-- CALL with SP = 16 (R262). -/
  | stackOverflow
  /-- RET with SP = 0 (R263). -/
  | stackUnderflow
  /-- SKP or SKNP with Vx above 15 (R264). -/
  | keyIndexOutOfRange
  /-- LD F, Vx with Vx above 15 (R265). -/
  | fontDigitOutOfRange
  deriving DecidableEq, Repr

/-- `rng_state` (R43): the seed, coded as a number, and how many bytes have been drawn. Its content is opaque in the
spec; the free value Config.rngByte is applied to it. DESIGN CHOICE, safe: notes/assumptions/1.md. -/
structure RngState where
  seed  : Nat
  draws : Nat
  deriving DecidableEq, Repr

/-- The state record of R30, with the configuration of R48 (notes/assumptions/2.md). -/
structure State where
  /-- General registers V0 to VF (R31). -/
  V : Vector Byte 16
  /-- The index register (R36). -/
  I : Word
  /-- The program counter (R35). -/
  pc : Word
  /-- The call stack's entries (R37). -/
  stack : Vector Word 16
  /-- The number of stack entries in use, 0 to 16 (R37, R48). -/
  SP : Fin 17
  /-- The delay timer (R38). -/
  DT : Byte
  /-- The sound timer (R39). -/
  ST : Byte
  /-- Memory (R40). -/
  mem : Memory
  /-- The framebuffer (R41). -/
  fb : Framebuffer
  /-- The keypad latch, written by the host only (R42, R52). -/
  key : KeyLatch
  /-- The random generator's state (R43). -/
  rngState : RngState
  /-- An execution error has halted the core (R44). -/
  halted : Bool
  /-- Which one (R44, R261). -/
  haltReason : HaltReason
  /-- The last completed cycle was a wait-for-key that found no key (R45). -/
  blocked : Bool
  /-- SHIFT_VARIANT and LDST_VARIANT, fixed at construction; no step writes it (R46, R48). -/
  cfg : Config
  deriving DecidableEq, Repr

/-- Why the machine stops. -/
inductive Fault where
  /-- Raised by `step` alone: a cycle was requested while `halted = 1`. The spec gives the halted state no step: it is a
  final, faulted state, left only by reset (R139, R270, U12). Safe: no next state is claimed. -/
  | cycleWhileHalted (r : HaltReason)
  deriving DecidableEq, Repr

/-- Why an instruction has no meaning. -/
inductive Refusal where
  /-- Raised by `exec` alone, for an instruction not modelled yet; no arm raises it. Safe. -/
  | notModelled (mnemonic : String)
  deriving DecidableEq, Repr

/-- The state right after construction's reset (R50, R290), with the spec's default configuration (R19, R20) and no
ROM loaded. The generator's state is the model's own start value: DESIGN CHOICE, notes/assumptions/1.md. -/
def State.reset : State where
  V := Vector.replicate 16 0
  I := 0
  pc := BitVec.ofNat 16 programBase
  stack := Vector.replicate 16 0
  SP := 0
  DT := 0
  ST := 0
  mem := []
  fb := Vector.replicate 32 (Vector.replicate 64 false)
  key := Vector.replicate 16 false
  rngState := { seed := 0, draws := 0 }
  halted := false
  haltReason := .none
  blocked := false
  cfg := Config.default

end Sys2Proof.Machine
end

