-- ==== Sys2Proof/Machine/Ops.lean ====
section
/-! DEFINITION. The named operations over memory and registers: masked memory (spec/20_memory.md), register file, call
stack, random draw, the cycle around a handler, halt entry (spec/60_exceptions.md rule R269) and the way out of a halt
(R270). -/

namespace Sys2Proof.Machine

/-! ### Memory (R70 to R73) -/

/-- FONT_BASE (R14). -/
def fontBase : Nat := 0x050

/-- The built-in font, glyph by glyph (R291). -/
def fontBytes : List Byte :=
  [0xF0, 0x90, 0x90, 0x90, 0xF0] ++ [0x20, 0x60, 0x20, 0x20, 0x70] ++ [0xF0, 0x10, 0xF0, 0x80, 0xF0] ++
  [0xF0, 0x10, 0xF0, 0x10, 0xF0] ++ [0x90, 0x90, 0xF0, 0x10, 0x10] ++ [0xF0, 0x80, 0xF0, 0x10, 0xF0] ++
  [0xF0, 0x80, 0xF0, 0x90, 0xF0] ++ [0xF0, 0x10, 0x20, 0x40, 0x40] ++ [0xF0, 0x90, 0xF0, 0x90, 0xF0] ++
  [0xF0, 0x90, 0xF0, 0x10, 0xF0] ++ [0xF0, 0x90, 0xF0, 0x90, 0x90] ++ [0xE0, 0x90, 0xE0, 0x90, 0xE0] ++
  [0xF0, 0x80, 0x80, 0x80, 0xF0] ++ [0xE0, 0x90, 0x90, 0x90, 0xE0] ++ [0xF0, 0x80, 0xF0, 0x80, 0xF0] ++
  [0xF0, 0x80, 0xF0, 0x80, 0x80]

/-- What an unlisted address reads as: memory's reset contents, the font at FONT_BASE and 0 elsewhere (R50, R290,
R291; notes/assumptions/3.md). -/
def resetByte (a : Nat) : Byte := if fontBase ≤ a then fontBytes.getD (a - fontBase) 0 else 0

/-- `a & ADDR_MASK` (R12, R71). -/
def maskAddr (a : Nat) : Nat := a % memSize

/-- The canonical form of a memory list. -/
abbrev Memory.wf (m : Memory) : Prop :=
  m.Pairwise (fun c d => c.1 < d.1) ∧ ∀ c ∈ m, c.1 < memSize ∧ c.2 ≠ resetByte c.1

/-- The byte at an address of the array. -/
def Memory.get : Memory → Nat → Byte
  | [], a => resetByte a
  | (b, v) :: m, a => if b = a then v else Memory.get m a

/-- The list without an entry for `a`. -/
def Memory.erase (m : Memory) (a : Nat) : Memory := m.filter (fun c => decide (c.1 ≠ a))

/-- Insert an entry before the first higher address. -/
def Memory.insert : Memory → Nat → Byte → Memory
  | [], a, v => [(a, v)]
  | (b, w) :: m, a, v => if a < b then (a, v) :: (b, w) :: m else (b, w) :: Memory.insert m a v

/-- `mem[a] <- v`, keeping the canonical form. -/
def Memory.put (m : Memory) (a : Nat) (v : Byte) : Memory :=
  if v = resetByte a then m.erase a else (m.erase a).insert a v

/-- `MemRead(a, 1)` on the array, the address masked (R71, R72). -/
def Memory.read (m : Memory) (a : Nat) : Byte := m.get (maskAddr a)

/-- `MemWrite(a, 1, v)` on the array, the address masked (R71, R72). -/
def Memory.write (m : Memory) (a : Nat) (v : Byte) : Memory := m.put (maskAddr a) v

/-- Single-byte writes at `a`, `a + 1`, … in increasing order, each address masked (R72, R75). -/
def Memory.writeBytes : Memory → Nat → List Byte → Memory
  | m, _, [] => m
  | m, a, v :: vs => Memory.writeBytes (m.write a v) (a + 1) vs

/-- Single-byte reads at `a` to `a + n - 1` in increasing order, each address masked (R72, R75). -/
def Memory.readBytes (m : Memory) : Nat → Nat → List Byte
  | _, 0 => []
  | a, n + 1 => m.read a :: Memory.readBytes m (a + 1) n

/-- `MemRead(a, 1)` (R72). -/
def memRead (s : State) (a : Nat) : Byte := s.mem.read a

/-- `MemWrite(a, 1, v), MemWrite(a + 1, 1, …), …` (R72, R75). -/
def memWriteBytes (s : State) (a : Nat) (vs : List Byte) : State := { s with mem := s.mem.writeBytes a vs }

/-! ### Registers -/

/-- `V[r]` (R26, R31). -/
def State.reg (s : State) (r : Reg) : Byte := s.V[r]

/-- `V[r] <- v` (R26, R31). -/
def State.setReg (s : State) (r : Reg) (v : Byte) : State := { s with V := s.V.set r v }

/-- `I <- v`, all 16 bits stored (R36). -/
def State.setI (s : State) (v : Word) : State := { s with I := v }

/-- `pc <- v` (R35, R161). -/
def State.setPc (s : State) (v : Word) : State := { s with pc := v }

/-- The cycle's advance: `pc <- (pc + 2) mod 2^16` (R132). -/
def advance (s : State) : State := s.setPc (s.pc + 2)

/-- `Skip()` (R150). -/
def skip (s : State) : State := s.setPc (s.pc + 2)

/-- Skip when a comparison holds. -/
def skipIf (c : Bool) (s : State) : State := if c then skip s else s

/-- The rewind of the wait-for-key handler: `pc <- (pc - 2) mod 2^16` (R243). -/
def rewind (s : State) : State := s.setPc (s.pc - 2)

/-- `rng_draw()` (R21, R26): the next random byte, a free value, and the generator advanced. -/
def rngDraw (s : State) : Byte × State :=
  (Config.rngByte s.rngState.seed s.rngState.draws,
   { s with rngState := { s.rngState with draws := s.rngState.draws + 1 } })

/-! ### Call stack (R151, R152) -/

/-- `Push(v)`: STACK_OVERFLOW when SP = 16, else store then increment. -/
def push (v : Word) (s : State) : Except HaltReason State :=
  if h : s.SP.val < 16 then
    .ok { s with stack := s.stack.set s.SP.val v h, SP := ⟨s.SP.val + 1, by omega⟩ }
  else .error .stackOverflow

/-- `Pop()`: STACK_UNDERFLOW when SP = 0, else decrement then load; the popped entry keeps its value. -/
def pop (s : State) : Except HaltReason (Word × State) :=
  if h : 0 < s.SP.val then
    .ok (s.stack[s.SP.val - 1]'(by omega), { s with SP := ⟨s.SP.val - 1, by omega⟩ })
  else .error .stackUnderflow

/-! ### The cycle around a handler (R130 to R135) -/

/-- How a handler ends: it completes, it is a wait-for-key that found no key, or it raises `Halt(reason)`. -/
inductive Handled where
  | done (s : State)
  | waiting (s : State)
  | halt (r : HaltReason)

/-- One timer's countdown (R247). -/
def countdown (b : Byte) : Byte := if b = 0 then 0 else b - 1

/-- `TimerTick()` (R134, R247). -/
def timerTick (s : State) : State := { s with DT := countdown s.DT, ST := countdown s.ST }

/-- The end of a completed cycle: the timers tick, `blocked` is written (R45, R130). -/
def endCycle (waits : Bool) (s : State) : State := { timerTick s with blocked := waits }

/-- HALT ENTRY (R269): of the state before the cycle only `halted` and `halt_reason` change. -/
def haltEntry (r : HaltReason) (s : State) : State := { s with halted := true, haltReason := r }

/-- One cycle around the handler `h` of the fetched word, from the state before the cycle (R130): advance, run the
handler, tick; or, when it raises `Halt`, halt entry on the state before the cycle. Taking an execution error answers a
next state (notes/assumptions/4.md). -/
def runCycle (h : State → Handled) (s : State) : Host.Outcome State Fault Refusal :=
  match h (advance s) with
  | .done t    => .next (endCycle false t)
  | .waiting t => .next (endCycle true t)
  | .halt r    => .next (haltEntry r s)

/-- THE WAY OUT OF A HALT, the only one (R270): the host's reset port. Every state element takes its reset value (R50,
R290); the configuration is fixed at construction (R24, R46) and the generator is not re-seeded (R290, D30). -/
def resetPort (s : State) : State := { State.reset with cfg := s.cfg, rngState := s.rngState }

/-- The word fetched at `pc`, big-endian, each byte address masked (R73, R131). -/
def fetchWord (s : State) : Word := wordOfBytes (memRead s s.pc.toNat) (memRead s (s.pc.toNat + 1))

/-- The instruction the dispatcher selects for the fetched word (R131, R133). -/
def fetchInstr (s : State) : Instr := decodeWord (fetchWord s)

end Sys2Proof.Machine
end

