-- ==== Sys2Proof/Machine/Flags.lean ====
section
/-! DEFINITION. Every flag computation: the core's only flag is VF (spec/10_state.md rules R32 to R34), written as a
carry, a no-borrow, a shifted-out bit or a collision. -/

namespace Sys2Proof.Machine

/-- A flag as VF holds it: 1 or 0. -/
def flagByte (b : Bool) : Byte := if b then 1 else 0

/-- Carry of 8XY4: the full-width sum exceeds 255 (R177). -/
def carryFlag (vx vy : Byte) : Byte := flagByte (decide (255 < vx.toNat + vy.toNat))

/-- No-borrow of 8XY5 and 8XY7: the minuend is strictly greater (R178, R180). -/
def greaterFlag (a b : Byte) : Byte := flagByte (decide (b.toNat < a.toNat))

/-- The bit shifted out of 8XY6: bit 0 (R179). -/
def shiftedOutRight (src : Byte) : Byte := flagByte (src.getLsbD 0)

/-- The bit shifted out of 8XYE: bit 7 (R181). -/
def shiftedOutLeft (src : Byte) : Byte := flagByte (src.getLsbD 7)

/-- The write order of the flag instructions (R33, R170): operands were read before; the flag goes to VF first, then
the result to Vx, so for x = 15 VF ends with the result. -/
def writeFlagThenResult (x : Reg) (flag result : Byte) (s : State) : State := (s.setReg VF flag).setReg x result

end Sys2Proof.Machine
end

