-- ==== Sys2Proof/Machine/Operands.lean ====
section
/-! DEFINITION. Every operand form of the instructions (spec/30_encoding.md rule R103, spec/43_index_memory.md rule
R206): what a field becomes before the handler uses it. -/

namespace Sys2Proof.Machine

/-- `zext_16(nnn)`: an address field as `pc` or `I` takes it (R103). -/
def zextAddr (nnn : Addr12) : Word := nnn.setWidth 16

/-- `zext_16(V[r])`: a register added to a 16-bit value (R160, R201). -/
def zextByte (b : Byte) : Word := b.setWidth 16

/-- The base of every data access, `I` as an unbounded number; `(I + k) & 0xFFF` is formed by the masked memory
primitives (R72, R206). -/
def indexBase (s : State) : Nat := s.I.toNat

/-- A register value used as an index 0 to 15 (key index R240, font digit R202): none when it is above 15. -/
def smallIndex (v : Byte) : Option Nibble := if h : v.toNat < 16 then some ⟨v.toNat, h⟩ else none

/-- `FONT_BASE + 5 * d` (R202). -/
def glyphAddr (d : Nibble) : Word := BitVec.ofNat 16 (fontBase + 5 * d.val)

/-- The source of a shift: Vx under SHIFT_VARIANT = A, Vy under B (R179, R181). -/
def shiftSource (x y : Reg) (s : State) : Byte :=
  match s.cfg.shift with
  | .A => s.reg x
  | .B => s.reg y

/-- What FX55 and FX65 leave in `I`: unchanged under KEEP_I, `(I + x + 1) mod 2^16` under ADVANCE_I (R204, R205). -/
def indexAfterBlock (x : Reg) (s : State) : Word :=
  match s.cfg.ldst with
  | .keepI    => s.I
  | .advanceI => s.I + BitVec.ofNat 16 (x.val + 1)

/-- The registers V0 to Vx in order, the data of FX55 (R204). -/
def regsUpTo (x : Reg) (s : State) : List Byte := s.V.toList.take (x.val + 1)

/-- The three decimal digits of a byte, hundreds first (R203). -/
def bcdDigits (v : Byte) : List Byte :=
  [BitVec.ofNat 8 (v.toNat / 100), BitVec.ofNat 8 (v.toNat / 10 % 10), BitVec.ofNat 8 (v.toNat % 10)]

/-- The lowest pressed key (R243). -/
def lowestKey (s : State) : Option Nibble := (List.finRange 16).find? (fun k => s.key[k])

end Sys2Proof.Machine
end

