-- ==== Sys2Proof/Machine/Alu.lean ====
section
/-! DEFINITION. Register loads, arithmetic, logic, shifts and random (spec/42_alu.md). Each meaning is the whole cycle
of its instruction; no instruction of this family can halt. -/

namespace Sys2Proof.Machine

/-- `LD Vx, byte` (R171). -/
def execLdVxByte (x : Reg) (kk : Byte) (s : State) : Host.Outcome State Fault Refusal :=
  runCycle (fun t => .done (t.setReg x kk)) s

/-- `ADD Vx, byte`: modulo 2^8, VF not written (R172). -/
def execAddVxByte (x : Reg) (kk : Byte) (s : State) : Host.Outcome State Fault Refusal :=
  runCycle (fun t => .done (t.setReg x (t.reg x + kk))) s

/-- `LD Vx, Vy` (R173). -/
def execLdVxVy (x y : Reg) (s : State) : Host.Outcome State Fault Refusal :=
  runCycle (fun t => .done (t.setReg x (t.reg y))) s

/-- `OR Vx, Vy`: VF not written (R174). -/
def execOrVxVy (x y : Reg) (s : State) : Host.Outcome State Fault Refusal :=
  runCycle (fun t => .done (t.setReg x (t.reg x ||| t.reg y))) s

/-- `AND Vx, Vy`: VF not written (R175). -/
def execAndVxVy (x y : Reg) (s : State) : Host.Outcome State Fault Refusal :=
  runCycle (fun t => .done (t.setReg x (t.reg x &&& t.reg y))) s

/-- `XOR Vx, Vy`: VF not written (R176). -/
def execXorVxVy (x y : Reg) (s : State) : Host.Outcome State Fault Refusal :=
  runCycle (fun t => .done (t.setReg x (t.reg x ^^^ t.reg y))) s

/-- `ADD Vx, Vy`: VF = carry (R177). -/
def execAddVxVy (x y : Reg) (s : State) : Host.Outcome State Fault Refusal :=
  runCycle (fun t =>
    .done (writeFlagThenResult x (carryFlag (t.reg x) (t.reg y)) (t.reg x + t.reg y) t)) s

/-- `SUB Vx, Vy`: VF = Vx > Vy (R178). -/
def execSubVxVy (x y : Reg) (s : State) : Host.Outcome State Fault Refusal :=
  runCycle (fun t =>
    .done (writeFlagThenResult x (greaterFlag (t.reg x) (t.reg y)) (t.reg x - t.reg y) t)) s

/-- `SHR Vx {, Vy}`: VF = the bit shifted out (R179). -/
def execShrVxVy (x y : Reg) (s : State) : Host.Outcome State Fault Refusal :=
  runCycle (fun t =>
    .done (writeFlagThenResult x (shiftedOutRight (shiftSource x y t)) (shiftSource x y t >>> 1) t)) s

/-- `SUBN Vx, Vy`: VF = Vy > Vx (R180). -/
def execSubnVxVy (x y : Reg) (s : State) : Host.Outcome State Fault Refusal :=
  runCycle (fun t =>
    .done (writeFlagThenResult x (greaterFlag (t.reg y) (t.reg x)) (t.reg y - t.reg x) t)) s

/-- `SHL Vx {, Vy}`: VF = the bit shifted out (R181). -/
def execShlVxVy (x y : Reg) (s : State) : Host.Outcome State Fault Refusal :=
  runCycle (fun t =>
    .done (writeFlagThenResult x (shiftedOutLeft (shiftSource x y t)) (shiftSource x y t <<< 1) t)) s

/-- `RND Vx, byte`: an unconditional draw, ANDed with the mask (R182). -/
def execRnd (x : Reg) (kk : Byte) (s : State) : Host.Outcome State Fault Refusal :=
  runCycle (fun t => .done ((rngDraw t).2.setReg x ((rngDraw t).1 &&& kk))) s

end Sys2Proof.Machine
end

