-- ==== Sys2Proof/Machine/Control.lean ====
section
/-! DEFINITION. Control transfer, skips and the no-op handlers (spec/41_control_flow.md, spec/40_cycle_dispatch.md
rules R136 and R137). -/

namespace Sys2Proof.Machine

/-- `RET`: `pc <- Pop()` (R152, R153). -/
def execRet (s : State) : Host.Outcome State Fault Refusal :=
  runCycle (fun t =>
    match pop t with
    | .ok (v, u)  => .done (u.setPc v)
    | .error r    => .halt r) s

/-- `JP addr` (R154). -/
def execJp (nnn : Addr12) (s : State) : Host.Outcome State Fault Refusal :=
  runCycle (fun t => .done (t.setPc (zextAddr nnn))) s

/-- `CALL addr`: push the address after this instruction, then jump (R151, R155). -/
def execCall (nnn : Addr12) (s : State) : Host.Outcome State Fault Refusal :=
  runCycle (fun t =>
    match push t.pc t with
    | .ok u    => .done (u.setPc (zextAddr nnn))
    | .error r => .halt r) s

/-- `SE Vx, byte` (R156). -/
def execSeVxByte (x : Reg) (kk : Byte) (s : State) : Host.Outcome State Fault Refusal :=
  runCycle (fun t => .done (skipIf (t.reg x == kk) t)) s

/-- `SNE Vx, byte` (R157). -/
def execSneVxByte (x : Reg) (kk : Byte) (s : State) : Host.Outcome State Fault Refusal :=
  runCycle (fun t => .done (skipIf (t.reg x != kk) t)) s

/-- `SE Vx, Vy` (R158). -/
def execSeVxVy (x y : Reg) (s : State) : Host.Outcome State Fault Refusal :=
  runCycle (fun t => .done (skipIf (t.reg x == t.reg y) t)) s

/-- `SNE Vx, Vy` (R159). -/
def execSneVxVy (x y : Reg) (s : State) : Host.Outcome State Fault Refusal :=
  runCycle (fun t => .done (skipIf (t.reg x != t.reg y) t)) s

/-- `JP V0, addr`: the sum is stored unmasked (R160). -/
def execJpV0Addr (nnn : Addr12) (s : State) : Host.Outcome State Fault Refusal :=
  runCycle (fun t => .done (t.setPc (zextAddr nnn + zextByte (t.reg 0)))) s

/-- The no-op handler: nothing (R136). -/
def noOp (s : State) : Handled := .done s

/-- `SYS addr`: the no-op handler, `nnn` read by nothing (R137). -/
def execSys (_nnn : Addr12) (s : State) : Host.Outcome State Fault Refusal := runCycle noOp s

/-- The no-op words of table T8 (R136). -/
def execNopT8 (_x _y _n : Nibble) (s : State) : Host.Outcome State Fault Refusal := runCycle noOp s

/-- The no-op words of table TE (R136). -/
def execNopTe (_x _m _n : Nibble) (s : State) : Host.Outcome State Fault Refusal := runCycle noOp s

/-- The no-op words of table TF (R136). -/
def execNopTf (_x : Nibble) (_kk : Byte) (s : State) : Host.Outcome State Fault Refusal := runCycle noOp s

end Sys2Proof.Machine
end

