-- ==== Sys2Proof/Machine/Display.lean ====
section
/-! DEFINITION. The framebuffer, clear screen and the XOR sprite blitter (spec/44_display.md). -/

namespace Sys2Proof.Machine

/-- All pixels off. -/
def blankScreen : Framebuffer := Vector.replicate 32 (Vector.replicate 64 false)

/-- `fb[py][px]` (R220). -/
def pixelAt (fb : Framebuffer) (px : Fin 64) (py : Fin 32) : Bool := (fb[py])[px]

/-- `fb[py][px] <- fb[py][px] ^ 1`. -/
def flipPixel (fb : Framebuffer) (px : Fin 64) (py : Fin 32) : Framebuffer :=
  fb.set py ((fb[py]).set px (!(pixelAt fb px py)))

/-- A column coordinate, wrapped modulo the screen width per pixel (R222). -/
def wrapX (n : Nat) : Fin 64 := ⟨n % screenW, Nat.mod_lt _ (by decide)⟩

/-- A row coordinate, wrapped modulo the screen height per pixel (R222). -/
def wrapY (n : Nat) : Fin 32 := ⟨n % screenH, Nat.mod_lt _ (by decide)⟩

/-- `(b >> (7 - col)) & 1`: bit 7 is the leftmost column (R222). -/
def spriteBit (b : Byte) (col : Nat) : Bool := b.getLsbD (7 - col)

/-- XOR one pixel into the framebuffer; the second component is the collision so far: set when a pixel that was on is
turned off (R222, R223). -/
def blitPixel (px : Fin 64) (py : Fin 32) (acc : Framebuffer × Bool) : Framebuffer × Bool :=
  (flipPixel acc.1 px py, acc.2 || pixelAt acc.1 px py)

/-- The columns still to draw of one sprite row, left to right. -/
def blitCols (ox py : Nat) (b : Byte) : List Nat → Framebuffer × Bool → Framebuffer × Bool
  | [], acc => acc
  | col :: cols, acc =>
    blitCols ox py b cols (if spriteBit b col then blitPixel (wrapX (ox + col)) (wrapY py) acc else acc)

/-- The rows still to draw of a sprite, top to bottom, one byte a row; `oy` is the row of the first of them. -/
def blitRows (ox : Nat) : Nat → List Byte → Framebuffer × Bool → Framebuffer × Bool
  | _, [], acc => acc
  | oy, b :: bs, acc => blitRows ox (oy + 1) bs (blitCols ox oy b [0, 1, 2, 3, 4, 5, 6, 7] acc)

/-- `CLS`: every pixel off, VF not written (R221). -/
def execCls (s : State) : Host.Outcome State Fault Refusal :=
  runCycle (fun t => .done { t with fb := blankScreen }) s

/-- The sprite of `DRW`: n bytes from I at (Vx, Vy), from the operands before VF is written (R33, R222). -/
def drawSprite (x y : Reg) (n : Nibble) (s : State) : Framebuffer × Bool :=
  blitRows (s.reg x).toNat (s.reg y).toNat (s.mem.readBytes (indexBase s) n.val) (s.fb, false)

/-- `DRW Vx, Vy, nibble`: draw, then VF = collision, written once (R222, R223). -/
def execDrw (x y : Reg) (n : Nibble) (s : State) : Host.Outcome State Fault Refusal :=
  runCycle (fun t =>
    .done (({ t with fb := (drawSprite x y n t).1 } : State).setReg VF (flagByte (drawSprite x y n t).2))) s

end Sys2Proof.Machine
end

