-- ==== Sys2Proof/Machine/Index.lean ====
section
/-! DEFINITION. The index register and memory instructions (spec/43_index_memory.md). -/

namespace Sys2Proof.Machine

/-- `LD I, addr` (R200). -/
def execLdIAddr (nnn : Addr12) (s : State) : Host.Outcome State Fault Refusal :=
  runCycle (fun t => .done (t.setI (zextAddr nnn))) s

/-- `ADD I, Vx`: modulo 2^16, VF not touched (R201). -/
def execAddIVx (x : Reg) (s : State) : Host.Outcome State Fault Refusal :=
  runCycle (fun t => .done (t.setI (t.I + zextByte (t.reg x)))) s

/-- `LD F, Vx`: the glyph's address, or FONT_DIGIT_OUT_OF_RANGE when Vx is above 15 (R202, R265). -/
def execLdFVx (x : Reg) (s : State) : Host.Outcome State Fault Refusal :=
  runCycle (fun t =>
    match smallIndex (t.reg x) with
    | some d => .done (t.setI (glyphAddr d))
    | none   => .halt .fontDigitOutOfRange) s

/-- `LD B, Vx`: three decimal digits at I, I + 1, I + 2 (R203). -/
def execLdBVx (x : Reg) (s : State) : Host.Outcome State Fault Refusal :=
  runCycle (fun t => .done (memWriteBytes t (indexBase t) (bcdDigits (t.reg x)))) s

/-- `LD [I], Vx`: V0 to Vx to memory from I, then I by LDST_VARIANT (R204). -/
def execLdMiVx (x : Reg) (s : State) : Host.Outcome State Fault Refusal :=
  runCycle (fun t =>
    .done ((memWriteBytes t (indexBase t) (regsUpTo x t)).setI (indexAfterBlock x t))) s

/-- V0 to Vx loaded from consecutive masked addresses; registers above x keep their values (R205). -/
def loadRegs (x : Reg) (s : State) : State :=
  { s with V := Vector.ofFn (fun r : Fin 16 => if r ≤ x then memRead s (indexBase s + r.val) else s.reg r) }

/-- `LD Vx, [I]`: memory from I to V0 to Vx, then I by LDST_VARIANT (R205). -/
def execLdVxMi (x : Reg) (s : State) : Host.Outcome State Fault Refusal :=
  runCycle (fun t => .done ((loadRegs x t).setI (indexAfterBlock x t))) s

end Sys2Proof.Machine
end

