-- ==== Sys2Proof/Machine/InputTimers.lean ====
section
/-! DEFINITION. The key-skip and key-wait instructions and the timer instructions (spec/45_input_timers.md). -/

namespace Sys2Proof.Machine

/-- `SKP Vx`: KEY_INDEX_OUT_OF_RANGE when Vx is above 15, else skip when the key is pressed (R240, R241). -/
def execSkp (x : Reg) (s : State) : Host.Outcome State Fault Refusal :=
  runCycle (fun t =>
    match smallIndex (t.reg x) with
    | some k => .done (skipIf (t.key[k]) t)
    | none   => .halt .keyIndexOutOfRange) s

/-- `SKNP Vx`: KEY_INDEX_OUT_OF_RANGE when Vx is above 15, else skip when the key is not pressed (R240, R242). -/
def execSknp (x : Reg) (s : State) : Host.Outcome State Fault Refusal :=
  runCycle (fun t =>
    match smallIndex (t.reg x) with
    | some k => .done (skipIf (!(t.key[k])) t)
    | none   => .halt .keyIndexOutOfRange) s

/-- `LD Vx, K`: the lowest pressed key's index, or rewind and wait (R243). -/
def execLdVxK (x : Reg) (s : State) : Host.Outcome State Fault Refusal :=
  runCycle (fun t =>
    match lowestKey t with
    | some k => .done (t.setReg x (BitVec.ofNat 8 k.val))
    | none   => .waiting (rewind t)) s

/-- `LD Vx, DT`: the value before this cycle's countdown (R244). -/
def execLdVxDt (x : Reg) (s : State) : Host.Outcome State Fault Refusal :=
  runCycle (fun t => .done (t.setReg x t.DT)) s

/-- `LD DT, Vx`: the countdown of the same cycle follows (R245). -/
def execLdDtVx (x : Reg) (s : State) : Host.Outcome State Fault Refusal :=
  runCycle (fun t => .done { t with DT := t.reg x }) s

/-- `LD ST, Vx`: the countdown of the same cycle follows (R246). -/
def execLdStVx (x : Reg) (s : State) : Host.Outcome State Fault Refusal :=
  runCycle (fun t => .done { t with ST := t.reg x }) s

end Sys2Proof.Machine
end

