-- ==== Sys2Proof/Machine/Step.lean ====
section
/-! DEFINITION. One cycle of the core (spec/40_cycle_dispatch.md rule R130): the halted check comes before fetch
(spec/60_exceptions.md rule R268); then fetch, dispatch, and the selected instruction's meaning. -/

namespace Sys2Proof.Machine

/-- One cycle. A halted core takes none (R139). -/
def step (s : State) : Host.Outcome State Fault Refusal :=
  if s.halted then .fault (.cycleWhileHalted s.haltReason) else exec (fetchInstr s) s

/-- The word numbered as the opcode table numbers it, stored big-endian at `pc`, where the next fetch reads it; it
stands for a program loaded from outside (notes/assumptions/9.md). -/
def State.withFetchWord (s : State) (nbits w : Nat) : State :=
  memWriteBytes s s.pc.toNat (bytesOfWord (BitVec.ofNat 16 (w % 2 ^ nbits)))

end Sys2Proof.Machine
end

