-- ==== Sys2Proof/Machine/Assembly.lean ====
section
/-! DEFINITION. The assembler notation of spec/30_encoding.md rules R115 and R116: an instruction as a line of text and
back. Text is a list of characters. Only notation: no meaning of an instruction rests on it. -/

namespace Sys2Proof.Machine

/-- The mnemonics of R106 to R110, and `DW`, a data word (R116). -/
inductive AsmName where
  | CLS | RET | SYS | JP | CALL | SE | SNE | LD | ADD | OR | AND | XOR | SUB | SHR | SUBN | SHL | RND | DRW | SKP | SKNP
  | DW
  deriving DecidableEq, Repr

/-- An operand (R115): a register, a number with the hexadecimal digits it is printed with, or a keyword. -/
inductive AsmOperand where
  | reg (r : Reg)
  | num (digits n : Nat)
  | kwI | kwDT | kwST | kwK | kwF | kwB | kwMemI
  deriving DecidableEq, Repr

/-- One line: a mnemonic and its operands. -/
structure AsmLine where
  name : AsmName
  args : List AsmOperand
  deriving DecidableEq, Repr

/-- A 12-bit number as printed, in three digits (DESIGN CHOICE, notes/assumptions/18.md). -/
def asmAddr (nnn : Addr12) : AsmOperand := .num 3 nnn.toNat

/-- An 8-bit number as printed, in two digits (DESIGN CHOICE, notes/assumptions/18.md). -/
def asmByte (kk : Byte) : AsmOperand := .num 2 kk.toNat

/-- The line a disassembler prints for an instruction (R116): ignored bits print nothing; a no-op word other than a
`0nnn` word prints as a data word. The `, Vy` of SHR and SHL, optional in text (R115), is always printed: R116 does not
say which form is (DESIGN CHOICE, notes/assumptions/18.md). -/
def disassemble : Instr → AsmLine
  | .cls            => ⟨.CLS, []⟩
  | .ret            => ⟨.RET, []⟩
  | .sys nnn        => ⟨.SYS, [asmAddr nnn]⟩
  | .jp nnn         => ⟨.JP, [asmAddr nnn]⟩
  | .call nnn       => ⟨.CALL, [asmAddr nnn]⟩
  | .seVxByte x kk  => ⟨.SE, [.reg x, asmByte kk]⟩
  | .sneVxByte x kk => ⟨.SNE, [.reg x, asmByte kk]⟩
  | .seVxVy x y     => ⟨.SE, [.reg x, .reg y]⟩
  | .ldVxByte x kk  => ⟨.LD, [.reg x, asmByte kk]⟩
  | .addVxByte x kk => ⟨.ADD, [.reg x, asmByte kk]⟩
  | .ldVxVy x y     => ⟨.LD, [.reg x, .reg y]⟩
  | .orVxVy x y     => ⟨.OR, [.reg x, .reg y]⟩
  | .andVxVy x y    => ⟨.AND, [.reg x, .reg y]⟩
  | .xorVxVy x y    => ⟨.XOR, [.reg x, .reg y]⟩
  | .addVxVy x y    => ⟨.ADD, [.reg x, .reg y]⟩
  | .subVxVy x y    => ⟨.SUB, [.reg x, .reg y]⟩
  | .shrVxVy x y    => ⟨.SHR, [.reg x, .reg y]⟩
  | .subnVxVy x y   => ⟨.SUBN, [.reg x, .reg y]⟩
  | .shlVxVy x y    => ⟨.SHL, [.reg x, .reg y]⟩
  | .sneVxVy x y    => ⟨.SNE, [.reg x, .reg y]⟩
  | .ldIAddr nnn    => ⟨.LD, [.kwI, asmAddr nnn]⟩
  | .jpV0Addr nnn   => ⟨.JP, [.reg 0, asmAddr nnn]⟩
  | .rnd x kk       => ⟨.RND, [.reg x, asmByte kk]⟩
  | .drw x y n      => ⟨.DRW, [.reg x, .reg y, .num 1 n.val]⟩
  | .skp x          => ⟨.SKP, [.reg x]⟩
  | .sknp x         => ⟨.SKNP, [.reg x]⟩
  | .ldVxDt x       => ⟨.LD, [.reg x, .kwDT]⟩
  | .ldVxK x        => ⟨.LD, [.reg x, .kwK]⟩
  | .ldDtVx x       => ⟨.LD, [.kwDT, .reg x]⟩
  | .ldStVx x       => ⟨.LD, [.kwST, .reg x]⟩
  | .addIVx x       => ⟨.ADD, [.kwI, .reg x]⟩
  | .ldFVx x        => ⟨.LD, [.kwF, .reg x]⟩
  | .ldBVx x        => ⟨.LD, [.kwB, .reg x]⟩
  | .ldMiVx x       => ⟨.LD, [.kwMemI, .reg x]⟩
  | .ldVxMi x       => ⟨.LD, [.reg x, .kwMemI]⟩
  | .nopT8 x y n    => ⟨.DW, [.num 4 (encode (.nopT8 x y n)).toNat]⟩
  | .nopTe x m n    => ⟨.DW, [.num 4 (encode (.nopTe x m n)).toNat]⟩
  | .nopTf x kk     => ⟨.DW, [.num 4 (encode (.nopTf x kk)).toNat]⟩

/-- A number in an address operand. -/
def addrOf (n : Nat) : Option Addr12 := if n < 4096 then some (BitVec.ofNat 12 n) else none

/-- A number in a byte operand. -/
def byteOf (n : Nat) : Option Byte := if n < 256 then some (BitVec.ofNat 8 n) else none

/-- A number in a nibble operand. -/
def rowsOf (n : Nat) : Option Nibble := if h : n < 16 then some ⟨n, h⟩ else none

/-- The instruction a line with operands of its shape stands for (R115). The second operand of a shift may be left out
of the text; y is then encoded as 0 (DESIGN CHOICE, notes/assumptions/11.md). A `SYS addr` line whose low nibble is 0 or
E is accepted; its word is CLS or RET, never SYS (R137), and R115 does not say whether the line is one (DESIGN CHOICE,
notes/assumptions/15.md). A number too large for its operand is no line (DESIGN CHOICE, the same entry). -/
def assembleInstr : AsmLine → Option Instr
  | ⟨.CLS, []⟩                            => some .cls
  | ⟨.RET, []⟩                            => some .ret
  | ⟨.SYS, [.num _ n]⟩                    => (addrOf n).map .sys
  | ⟨.JP, [.num _ n]⟩                     => (addrOf n).map .jp
  | ⟨.JP, [.reg 0, .num _ n]⟩             => (addrOf n).map .jpV0Addr
  | ⟨.CALL, [.num _ n]⟩                   => (addrOf n).map .call
  | ⟨.SE, [.reg x, .num _ n]⟩             => (byteOf n).map (.seVxByte x)
  | ⟨.SE, [.reg x, .reg y]⟩               => some (.seVxVy x y)
  | ⟨.SNE, [.reg x, .num _ n]⟩            => (byteOf n).map (.sneVxByte x)
  | ⟨.SNE, [.reg x, .reg y]⟩              => some (.sneVxVy x y)
  | ⟨.LD, [.reg x, .num _ n]⟩             => (byteOf n).map (.ldVxByte x)
  | ⟨.LD, [.reg x, .reg y]⟩               => some (.ldVxVy x y)
  | ⟨.LD, [.kwI, .num _ n]⟩               => (addrOf n).map .ldIAddr
  | ⟨.LD, [.reg x, .kwDT]⟩                => some (.ldVxDt x)
  | ⟨.LD, [.reg x, .kwK]⟩                 => some (.ldVxK x)
  | ⟨.LD, [.kwDT, .reg x]⟩                => some (.ldDtVx x)
  | ⟨.LD, [.kwST, .reg x]⟩                => some (.ldStVx x)
  | ⟨.LD, [.kwF, .reg x]⟩                 => some (.ldFVx x)
  | ⟨.LD, [.kwB, .reg x]⟩                 => some (.ldBVx x)
  | ⟨.LD, [.kwMemI, .reg x]⟩              => some (.ldMiVx x)
  | ⟨.LD, [.reg x, .kwMemI]⟩              => some (.ldVxMi x)
  | ⟨.ADD, [.reg x, .num _ n]⟩            => (byteOf n).map (.addVxByte x)
  | ⟨.ADD, [.reg x, .reg y]⟩              => some (.addVxVy x y)
  | ⟨.ADD, [.kwI, .reg x]⟩                => some (.addIVx x)
  | ⟨.OR, [.reg x, .reg y]⟩               => some (.orVxVy x y)
  | ⟨.AND, [.reg x, .reg y]⟩              => some (.andVxVy x y)
  | ⟨.XOR, [.reg x, .reg y]⟩              => some (.xorVxVy x y)
  | ⟨.SUB, [.reg x, .reg y]⟩              => some (.subVxVy x y)
  | ⟨.SUBN, [.reg x, .reg y]⟩             => some (.subnVxVy x y)
  | ⟨.SHR, [.reg x]⟩                      => some (.shrVxVy x 0)
  | ⟨.SHR, [.reg x, .reg y]⟩              => some (.shrVxVy x y)
  | ⟨.SHL, [.reg x]⟩                      => some (.shlVxVy x 0)
  | ⟨.SHL, [.reg x, .reg y]⟩              => some (.shlVxVy x y)
  | ⟨.RND, [.reg x, .num _ n]⟩            => (byteOf n).map (.rnd x)
  | ⟨.DRW, [.reg x, .reg y, .num _ n]⟩    => (rowsOf n).map (.drw x y)
  | ⟨.SKP, [.reg x]⟩                      => some (.skp x)
  | ⟨.SKNP, [.reg x]⟩                     => some (.sknp x)
  | _                                     => none

/-- The word a line stands for: a data word as it is, every other line by the encoder. R116 gives `DW` only as what a
disassembler prints; that a `DW` line is also read, with any 16-bit number, is DESIGN CHOICE,
notes/assumptions/16.md. -/
def assemble (l : AsmLine) : Option Word :=
  match l with
  | ⟨.DW, [.num _ n]⟩ => if n < 65536 then some (BitVec.ofNat 16 n) else none
  | l                 => (assembleInstr l).map encode

/-! ### Text (R115) -/

/-- The hexadecimal digits. -/
def hexChars : List Char :=
  ['0', '1', '2', '3', '4', '5', '6', '7', '8', '9', 'A', 'B', 'C', 'D', 'E', 'F']

/-- A hexadecimal digit as the spec's texts print it: `0` to `9`, `A` to `F`. -/
def hexChar (n : Nat) : Char := hexChars.getD n '0'

/-- A number in `k` hexadecimal digits. -/
def hexText : Nat → Nat → List Char
  | 0, _ => []
  | k + 1, n => hexText k (n / 16) ++ [hexChar (n % 16)]

/-- A mnemonic's letters. -/
def AsmName.text : AsmName → List Char
  | .CLS => ['C', 'L', 'S']
  | .RET => ['R', 'E', 'T']
  | .SYS => ['S', 'Y', 'S']
  | .JP => ['J', 'P']
  | .CALL => ['C', 'A', 'L', 'L']
  | .SE => ['S', 'E']
  | .SNE => ['S', 'N', 'E']
  | .LD => ['L', 'D']
  | .ADD => ['A', 'D', 'D']
  | .OR => ['O', 'R']
  | .AND => ['A', 'N', 'D']
  | .XOR => ['X', 'O', 'R']
  | .SUB => ['S', 'U', 'B']
  | .SHR => ['S', 'H', 'R']
  | .SUBN => ['S', 'U', 'B', 'N']
  | .SHL => ['S', 'H', 'L']
  | .RND => ['R', 'N', 'D']
  | .DRW => ['D', 'R', 'W']
  | .SKP => ['S', 'K', 'P']
  | .SKNP => ['S', 'K', 'N', 'P']
  | .DW => ['D', 'W']

/-- Every mnemonic. -/
def asmNames : List AsmName :=
  [.CLS, .RET, .SYS, .JP, .CALL, .SE, .SNE, .LD, .ADD, .OR, .AND, .XOR, .SUB, .SHR, .SUBN, .SHL, .RND, .DRW, .SKP,
   .SKNP, .DW]

/-- An operand's text. -/
def AsmOperand.text : AsmOperand → List Char
  | .reg r => ['V', hexChar r.val]
  | .num k n => '0' :: 'x' :: hexText k n
  | .kwI => ['I']
  | .kwDT => ['D', 'T']
  | .kwST => ['S', 'T']
  | .kwK => ['K']
  | .kwF => ['F']
  | .kwB => ['B']
  | .kwMemI => ['[', 'I', ']']

/-- Operands separated by a comma and a space (DESIGN CHOICE for the space, notes/assumptions/18.md). -/
def operandsText : List AsmOperand → List Char
  | [] => []
  | [a] => a.text
  | a :: as => a.text ++ [',', ' '] ++ operandsText as

/-- The text of a line: mnemonic, then comma-separated operands. -/
def AsmLine.text (l : AsmLine) : List Char :=
  match l.args with
  | [] => l.name.text
  | _  => l.name.text ++ [' '] ++ operandsText l.args

/-- The value of a digit in a base up to 16. Upper case only: R115 does not say whether `a` to `f` may stand for `A` to
`F` (DESIGN CHOICE, notes/assumptions/17.md). -/
def digitValue (base : Nat) (c : Char) : Option Nat :=
  match (hexChars.take base).findIdx? (fun d => d == c) with
  | some k => some k
  | none   => none

/-- A number's digits, most significant first, in a base up to 16; `acc` is the value so far. -/
def readDigits (base : Nat) : Nat → List Char → Option Nat
  | acc, [] => some acc
  | acc, c :: cs => (digitValue base c).bind (fun d => readDigits base (acc * base + d) cs)

/-- A number, `0x` hexadecimal or decimal (R115). The `x` in lower case, any number of digits, leading zeros included
(DESIGN CHOICE, notes/assumptions/17.md). -/
def readNumber : List Char → Option AsmOperand
  | '0' :: 'x' :: c :: cs => (readDigits 16 0 (c :: cs)).map (.num (cs.length + 1))
  | c :: cs => (readDigits 10 0 (c :: cs)).map (.num (cs.length + 1))
  | [] => none

/-- An operand's text, read (R115). -/
def readOperand : List Char → Option AsmOperand
  | ['I'] => some .kwI
  | ['D', 'T'] => some .kwDT
  | ['S', 'T'] => some .kwST
  | ['K'] => some .kwK
  | ['F'] => some .kwF
  | ['B'] => some .kwB
  | ['[', 'I', ']'] => some .kwMemI
  | ['V', c] => (digitValue 16 c).bind (fun n => (rowsOf n).map .reg)
  | cs => readNumber cs

/-- The text without its spaces. -/
def dropSpaces (cs : List Char) : List Char := cs.filter (fun c => !(c == ' '))

/-- The pieces of a text between commas; `cur` is the current piece, reversed. -/
def splitCommas : List Char → List Char → List (List Char)
  | cur, [] => [cur.reverse]
  | cur, c :: cs => if c == ',' then cur.reverse :: splitCommas [] cs else splitCommas (c :: cur) cs

/-- One line of text, read: mnemonic, then comma-separated operands (R115). Mnemonics and keywords in upper case; after
the mnemonic spaces are dropped wherever they stand; no comment (DESIGN CHOICE, notes/assumptions/17.md). -/
def readLine (cs : List Char) : Option AsmLine :=
  match asmNames.find? (fun m => m.text == cs.takeWhile (fun c => !(c == ' '))) with
  | none   => none
  | some m =>
    match dropSpaces (cs.dropWhile (fun c => !(c == ' '))) with
    | []      => some ⟨m, []⟩
    | c :: as => ((splitCommas [] (c :: as)).mapM readOperand).map (AsmLine.mk m)

end Sys2Proof.Machine
end

