-- ==== Sys2Proof/Machine/Boundary.lean ====
section
/-! DEFINITION. What the host does to the core and reads from it (spec/00_scope.md rule R8, spec/60_exceptions.md rule
R278): construction, ROM load, key writes, cycles with their result, reset, and the output ports. -/

namespace Sys2Proof.Machine

/-! ### Ports -/

/-- PIXEL_ON_WORD and PIXEL_OFF_WORD (R22, R224). -/
def pixelWord (on : Bool) : BitVec 32 := if on then 0xFFFFFFFF else 0x00000000

/-- The pixel at element `k` of the linear order: row-major, `k = py * 64 + px` (R220). -/
def linearPixel (fb : Framebuffer) (k : Fin 2048) : Bool :=
  (fb[k.val / screenW]'(by have := k.isLt; simp only [screenW]; omega))[k.val % screenW]'(by
    simp only [screenW]; omega)

/-- The `fb` output port (R8, R224). -/
def fbPort (s : State) : Vector (BitVec 32) 2048 := Vector.ofFn (fun k => pixelWord (linearPixel s.fb k))

/-- The `st` output port: the sound timer's value (R8, R39). -/
def stPort (s : State) : Byte := s.ST

/-- The code of a halt reason (R261). -/
def HaltReason.code : HaltReason → Nat
  | .none                => 0
  | .stackOverflow       => 1
  | .stackUnderflow      => 2
  | .keyIndexOutOfRange  => 3
  | .fontDigitOutOfRange => 4

/-- The `halted` and `halt_reason` output ports (R8, R261). -/
def haltPort (s : State) : Bool × Nat := (s.halted, s.haltReason.code)

/-- The `blocked` output port (R8, R45). -/
def blockedPort (s : State) : Bool := s.blocked

/-! ### Construction and ROM load (R290 to R294) -/

/-- The result of a ROM load, on the `load_error` port (R292, R293). -/
inductive LoadError where
  | none
  | romTooLarge
  deriving DecidableEq, Repr

/-- ROM load: verbatim from PROGRAM_BASE (R292), or ROM_TOO_LARGE with no state change (R293). -/
def loadRom (rom : List Byte) (s : State) : LoadError × State :=
  if rom.length ≤ maxRomBytes then (.none, memWriteBytes s programBase rom) else (.romTooLarge, s)

/-- Construction: a reset, the seed, then the ROM (R290, R294). -/
def construct (cfg : Config) (seed : Nat) (rom : List Byte) : LoadError × State :=
  loadRom rom { State.reset with cfg := cfg, rngState := { seed := seed, draws := 0 } }

/-! ### Cycles and their results -/

/-- The result of a cycle (R138). -/
inductive CycleResult where
  | ok
  | halted (r : HaltReason)
  deriving DecidableEq, Repr

/-- The result a cycle that left state `t` returns (R130, R138). -/
def cycleResult (t : State) : CycleResult := if t.halted then .halted t.haltReason else .ok

/-- A requested cycle: its result and the state it leaves; none where the request is a precondition violation, the core
being halted (R139). -/
def cycle (s : State) : Option (CycleResult × State) :=
  match step s with
  | .next t    => some (cycleResult t, t)
  | .fault _   => none
  | .refused _ => none

/-- A key write: the input collaborator sets the sixteen levels between two cycles (R42, R140, R278). -/
def writeKeys (k : KeyLatch) (s : State) : State := { s with key := k }

/-- What the host can do to a constructed core (R278). A ROM is loaded after construction only together with a reset
(D27). -/
inductive HostMove where
  /-- Write the key latch. -/
  | writeKeys (k : KeyLatch)
  /-- Request a cycle. -/
  | cycle
  /-- Read the output ports. -/
  | readPorts
  /-- Request a reset. -/
  | reset
  /-- Request a reset, then load a ROM. -/
  | resetAndLoad (rom : List Byte)
  /-- Adjust the target cycle delay, which the core does not interpret (D31). -/
  | speed (delay : Nat)
  deriving DecidableEq, Repr

/-- The state a host move leaves; none where the move breaks the host's precondition (R139). -/
def hostMove : HostMove → State → Option State
  | .writeKeys k, s      => some (writeKeys k s)
  | .cycle, s            => (cycle s).map Prod.snd
  | .readPorts, s        => some s
  | .reset, s            => some (resetPort s)
  | .resetAndLoad rom, s => some (loadRom rom (resetPort s)).2
  | .speed _, s          => some s

/-- A sequence of host moves, in order. -/
def hostRun : List HostMove → State → Option State
  | [], s      => some s
  | m :: ms, s => (hostMove m s).bind (hostRun ms)

end Sys2Proof.Machine
end

