-- ==== Sys2Proof/Safety.lean ====
section
/-! DEFINITION. What counts as a sound state and a safe run, and the words the claims are written in: what a cycle
leaves unchanged, and how it ends. -/

namespace Sys2Proof.Machine

/-! ### Invariant and reachability -/

/-- The state invariant: memory is canonical; a halt has a reason and only a halt has one (R44, R261); a blocked core
is at the wait-for-key instruction it repeats (R45, R243); a halted core is not blocked. -/
structure StateInv (s : State) : Prop where
  mem_wf : s.mem.wf
  reason : s.halted = true ↔ s.haltReason ≠ .none
  blocked_waits : s.blocked = true → ∃ x, fetchInstr s = .ldVxK x
  halted_unblocked : s.halted = true → s.blocked = false

/-- A state that construction and host moves can bring about (R278, R294). -/
def Reachable (s : State) : Prop :=
  ∃ cfg seed rom moves, hostRun moves (construct cfg seed rom).2 = some s

/-- A state in which a cycle may be requested (R139). -/
def Runnable (s : State) : Prop := s.halted = false

/-- An outcome with its next state changed by `f`. -/
def mapNext (f : State → State) : Host.Outcome State Fault Refusal → Host.Outcome State Fault Refusal
  | .next s    => .next (f s)
  | .fault r   => .fault r
  | .refused r => .refused r

/-! ### Frames: what is unchanged from `s` to `t` -/

/-- Every general register outside `l` keeps its value. -/
def KeepsRegsBut (l : List Reg) (s t : State) : Prop := ∀ r, r ∉ l → t.reg r = s.reg r

/-- The index register keeps its value. -/
def KeepsIndex (s t : State) : Prop := t.I = s.I

/-- The call stack keeps its entries and its pointer. -/
def KeepsStack (s t : State) : Prop := t.stack = s.stack ∧ t.SP = s.SP

/-- Every byte of memory reads as before. -/
def KeepsMemory (s t : State) : Prop := ∀ a, memRead t a = memRead s a

/-- Every byte of memory outside the `n` bytes from `base`, each address masked, reads as before. -/
def KeepsMemoryBut (base n : Nat) (s t : State) : Prop :=
  ∀ a, (∀ k, k < n → maskAddr a ≠ maskAddr (base + k)) → memRead t a = memRead s a

/-- Every pixel keeps its value. -/
def KeepsScreen (s t : State) : Prop := ∀ px py, pixelAt t.fb px py = pixelAt s.fb px py

/-- The random generator is not advanced. -/
def KeepsRng (s t : State) : Prop := t.rngState = s.rngState

/-- The key latch, the configuration and the halt status keep their values. -/
def KeepsInputsAndStatus (s t : State) : Prop :=
  t.key = s.key ∧ t.cfg = s.cfg ∧ t.halted = s.halted ∧ t.haltReason = s.haltReason

/-- The frame of an instruction that writes no state but the registers in `l` (and what every cycle writes). -/
def RegisterFrame (l : List Reg) (s t : State) : Prop :=
  KeepsRegsBut l s t ∧ KeepsIndex s t ∧ KeepsStack s t ∧ KeepsMemory s t ∧ KeepsScreen s t ∧ KeepsRng s t

/-! ### How a cycle ends -/

/-- Both timers one lower, a timer at 0 staying 0 (R247). -/
def TimersTicked (s t : State) : Prop := t.DT.toNat = s.DT.toNat - 1 ∧ t.ST.toNat = s.ST.toNat - 1

/-- A cycle completed, not waiting, and left `pc` at `pc'`; its handler wrote no timer (R130, R134). -/
def ClosesCycle (s t : State) (pc' : Word) : Prop :=
  t.pc = pc' ∧ t.blocked = false ∧ TimersTicked s t ∧ KeepsInputsAndStatus s t

/-- A cycle halted with reason `r`: of the state before it only `halted` and `halt_reason` changed (R269). -/
def HaltsWith (r : HaltReason) (s t : State) : Prop := t = { s with halted := true, haltReason := r }

/-! ### The sprite as a set of pixels -/

/-- The sprite that `DRW Vx, Vy, n` draws in state `s` has a 1 bit on pixel (px, py) (R222). -/
def SpriteHits (x y : Reg) (n : Nibble) (s : State) (px : Fin 64) (py : Fin 32) : Prop :=
  ∃ row, row < n.val ∧ ∃ col, col < 8 ∧ px.val = ((s.reg x).toNat + col) % 64 ∧
    py.val = ((s.reg y).toNat + row) % 32 ∧ (memRead s (s.I.toNat + row)).getLsbD (7 - col) = true

/-! ### Which instructions -/

/-- The registers an instruction may write: its destination, VF where it writes a flag (R32), V0 to Vx for the register
load (R205). -/
def mayWriteReg (i : Instr) (r : Reg) : Bool :=
  match i with
  | .ldVxByte x _ | .addVxByte x _ | .ldVxVy x _ | .orVxVy x _ | .andVxVy x _ | .xorVxVy x _ | .rnd x _ | .ldVxDt x
  | .ldVxK x => r == x
  | .addVxVy x _ | .subVxVy x _ | .shrVxVy x _ | .subnVxVy x _ | .shlVxVy x _ => r == x || r == VF
  | .drw _ _ _ => r == VF
  | .ldVxMi x => decide (r ≤ x)
  | .cls | .ret | .sys _ | .jp _ | .call _ | .seVxByte _ _ | .sneVxByte _ _ | .seVxVy _ _ | .sneVxVy _ _ | .ldIAddr _
  | .jpV0Addr _ | .skp _ | .sknp _ | .ldDtVx _ | .ldStVx _ | .addIVx _ | .ldFVx _ | .ldBVx _ | .ldMiVx _
  | .nopT8 _ _ _ | .nopTe _ _ _ | .nopTf _ _ => false

/-- The halt conditions (R261): the reason an instruction raises in a state, if any. -/
def haltsIn (i : Instr) (s : State) : Option HaltReason :=
  match i with
  | .call _  => if s.SP.val = 16 then some .stackOverflow else none
  | .ret     => if s.SP.val = 0 then some .stackUnderflow else none
  | .skp x   => if 15 < (s.reg x).toNat then some .keyIndexOutOfRange else none
  | .sknp x  => if 15 < (s.reg x).toNat then some .keyIndexOutOfRange else none
  | .ldFVx x => if 15 < (s.reg x).toNat then some .fontDigitOutOfRange else none
  | .cls | .sys _ | .jp _ | .seVxByte _ _ | .sneVxByte _ _ | .seVxVy _ _ | .sneVxVy _ _ | .ldVxByte _ _
  | .addVxByte _ _ | .ldVxVy _ _ | .orVxVy _ _ | .andVxVy _ _ | .xorVxVy _ _ | .addVxVy _ _ | .subVxVy _ _
  | .shrVxVy _ _ | .subnVxVy _ _ | .shlVxVy _ _ | .ldIAddr _ | .jpV0Addr _ | .rnd _ _ | .drw _ _ _ | .ldVxDt _
  | .ldVxK _ | .ldDtVx _ | .ldStVx _ | .addIVx _ | .ldBVx _ | .ldMiVx _ | .ldVxMi _ | .nopT8 _ _ _ | .nopTe _ _ _
  | .nopTf _ _ => none

end Sys2Proof.Machine
end

