-- ==== Sys2Proof/Certificates/Slice0/Obligations.lean ====
section
/-! DEFINITION. The statements about the CHIP-8 core. Each docstring says which text of spec/ it formalises; a clause
that rests on a decision the spec marks as its own is named as such. "Completes" below means that exec answers a next
state. An instruction's encoding clause says which words select it. Three clauses recur and rest on decisions of the
spec, not on the rule a statement cites: pc + 2 and pc + 4 are modulo 2^16 (D7), a completed cycle writes blocked (D26),
and a halting cycle commits nothing (D9). -/

open Sys2Proof Sys2Proof.Machine

/-! ### Encoding -/

/-- R101: every field is the mask and shift of the word that the rule quotes. -/
def Obligations.FieldsAreMasksOfTheWord : Prop :=
  ∀ w : Word,
    (nnnField w).toNat = (w &&& 0x0FFF).toNat ∧ (kkField w).toNat = (w &&& 0x00FF).toNat ∧
    (xField w).val = ((w &&& 0x0F00) >>> 8).toNat ∧ (yField w).val = ((w &&& 0x00F0) >>> 4).toNat ∧
    (opField w).val = ((w &&& 0xF000) >>> 12).toNat ∧ (nField w).val = (w &&& 0x000F).toNat

/-- 30_encoding.md section 3 (R111, which the spec marks as derived): a word selects the no-op handler exactly when it
lies in the no-op space. -/
def Obligations.NoOpSpaceIsExact : Prop :=
  ∀ w : Word,
    (decodeWord w = .sys (nnnField w) ∨ decodeWord w = .nopT8 (xField w) (yField w) (nField w) ∨
      decodeWord w = .nopTe (xField w) (yField w) (nField w) ∨ decodeWord w = .nopTf (xField w) (kkField w)) ↔
    ((opField w = 0x0 ∧ nField w ∉ ([0x0, 0xE] : List Nibble)) ∨
      (opField w = 0x8 ∧ nField w ∈ ([0x8, 0x9, 0xA, 0xB, 0xC, 0xD, 0xF] : List Nibble)) ∨
      (opField w = 0xE ∧ nField w ∉ ([0x1, 0xE] : List Nibble)) ∨
      (opField w = 0xF ∧
        kkField w ∉ ([0x07, 0x0A, 0x15, 0x18, 0x1E, 0x29, 0x33, 0x55, 0x65] : List Byte)))

/-- 30_encoding.md: decoding the bytes of an encoded well-formed instruction gives it back, for every constructor and
every operand. -/
def Obligations.DecodeInvertsEncode : Prop :=
  ∀ i : Instr, i.wellFormed = true → decodeBytes (encodeBytes i) = .ok (i, [])

/-- 30_encoding.md: every word decodes to a well-formed instruction, whose own word is the canonical word, the one with
the ignored bits of R112 (a decision of the spec, D21) as tables R107 and R109 print them. -/
def Obligations.EncodeInvertsDecodeUpToIgnoredBits : Prop :=
  ∀ w : Word, (decodeWord w).wellFormed = true ∧ encode (decodeWord w) = canonicalWord w

/-- 30_encoding.md section 3 (R112, resting on decision D21): the bits the dispatcher does not examine do not affect
which instruction executes. -/
def Obligations.IgnoredBitsDoNotSelect : Prop :=
  ∀ v w : Word, opField v = opField w →
    (opField w = 0x0 → nField v = nField w → nField w = 0x0 ∨ nField w = 0xE → decodeWord v = decodeWord w) ∧
    (opField w = 0x5 ∨ opField w = 0x9 → xField v = xField w → yField v = yField w → decodeWord v = decodeWord w) ∧
    (opField w = 0xE → xField v = xField w → nField v = nField w → nField w = 0x1 ∨ nField w = 0xE →
      decodeWord v = decodeWord w)

/-- 30_encoding.md section 3 and opcode_table.json: under the fallback precedence exactly one row of the opcode table
applies to each word, and it is the row of the instruction the dispatch tables select. -/
def Obligations.OpcodeTableAgreesWithDispatch : Prop :=
  ∀ w : Word, ∃ r, applicableRows w = [r] ∧ r.mnemonic = (decodeWord w).mnemonic

/-- 30_encoding.md tables R106 to R110, 95_test_vectors.md: some words written out from the spec. -/
def Obligations.SampleWordsDecode : Prop :=
  decodeWord 0x00E0 = .cls ∧ decodeWord 0x012E = .ret ∧ decodeWord 0x0123 = .sys 0x123 ∧
  decodeWord 0x1FFF = .jp 0xFFF ∧ decodeWord 0x5AB3 = .seVxVy 0xA 0xB ∧ decodeWord 0x8126 = .shrVxVy 1 2 ∧
  decodeWord 0x8128 = .nopT8 1 2 8 ∧ decodeWord 0xC30F = .rnd 3 0x0F ∧ decodeWord 0xD125 = .drw 1 2 5 ∧
  decodeWord 0xE35E = .skp 3 ∧ decodeWord 0xE300 = .nopTe 3 0 0 ∧ decodeWord 0xF265 = .ldVxMi 2 ∧
  decodeWord 0xF3FF = .nopTf 3 0xFF

/-- 30_encoding.md section 4 (R115, R116; notation, decision D23): the line the disassembler prints for a word
assembles to that word's canonical form. For the no-op words of T8, TE and TF that line is a `DW` line, and that the
assembler reads one is the model's choice (log entry 16); so is that SHR and SHL print their `, Vy` (log entry 18). -/
def Obligations.AssemblerReadsBackDisassembly : Prop :=
  ∀ w : Word, assemble (disassemble (decodeWord w)) = some (encode (decodeWord w))

/-! ### The cycle -/

/-- 40_cycle_dispatch.md section 1 (R130, R131, R133): in a core that is not halted, when the two bytes at pc decode to
a well-formed instruction, a step is exec of that instruction at that state; exec itself advances pc past the word and
ticks the timers. -/
def Obligations.StepRunsTheFetchedInstruction : Prop :=
  ∀ s i, s.halted = false → i.wellFormed = true →
    decodeBytes [memRead s s.pc.toNat, memRead s (s.pc.toNat + 1)] = .ok (i, []) → step s = exec i s

/-- 40_cycle_dispatch.md section 3 (R139, resting on decision D9; the fault's name is the model's, log entry 4): a halted
core has no step, and a cycle request then is a precondition violation. -/
def Obligations.HaltedCoreTakesNoCycle : Prop :=
  ∀ s : State, s.halted = true → step s = .fault (.cycleWhileHalted s.haltReason) ∧ cycle s = none

/-- 20_memory.md sections 1 and 2 (R71, R73, with decision D6 for the masking of fetch): the word at pc is big-endian,
each byte address masked to 12 bits; at pc & 0xFFF = 0xFFF the low byte comes from address 0. -/
def Obligations.FetchIsBigEndianAndMasked : Prop :=
  ∀ s : State,
    (fetchWord s).toNat =
      (memRead s (s.pc.toNat % 4096)).toNat * 256 + (memRead s ((s.pc.toNat + 1) % 4096)).toNat ∧
    (s.pc.toNat % 4096 = 0xFFF → (fetchWord s).toNat = (memRead s 0xFFF).toNat * 256 + (memRead s 0).toNat)

/-- 40_cycle_dispatch.md section 3 (R138; the halt conditions are those of R261, with decisions D8, D10, D11): each
cycle of a core that is not halted returns Ok, or Halted with the reason its instruction raises. -/
def Obligations.EveryCycleReturnsItsResult : Prop :=
  ∀ s : State, s.halted = false → ∃ t, step s = .next t ∧
    (haltsIn (fetchInstr s) s = none → cycle s = some (.ok, t)) ∧
    (∀ k, haltsIn (fetchInstr s) s = some k → cycle s = some (.halted k, t))

/-- 60_exceptions.md sections 1 and 3 (R260, R261, R269, resting on decisions D8 to D11): an instruction that raises an execution error
commits nothing; of the state before the cycle only halted and halt_reason change. -/
def Obligations.HaltEntryCommitsNothing : Prop :=
  ∀ i s k, haltsIn i s = some k → exec i s = .next { s with halted := true, haltReason := k }

/-- 60_exceptions.md sections 1 and 2 (R261, R266, R268; decisions D8, D10, D11): no other instruction and no other
condition halts. -/
def Obligations.OnlyTheHaltConditionsHalt : Prop :=
  ∀ i s t, haltsIn i s = none → exec i s = .next t → t.halted = s.halted ∧ t.haltReason = s.haltReason

/-- R134: after a handler that completes without halting both timers are decremented once if nonzero, whatever the
handler was; an instruction that has just written a timer has the written value ticked. -/
def Obligations.TimersTickOncePerCompletedCycle : Prop :=
  ∀ i s t, s.halted = false → exec i s = .next t → t.halted = false →
    ((∀ x, i ≠ .ldDtVx x) → t.DT.toNat = s.DT.toNat - 1) ∧ (∀ x, i = .ldDtVx x → t.DT.toNat = (s.reg x).toNat - 1) ∧
    ((∀ x, i ≠ .ldStVx x) → t.ST.toNat = s.ST.toNat - 1) ∧ (∀ x, i = .ldStVx x → t.ST.toNat = (s.reg x).toNat - 1)

/-- 10_state.md section 7 (R45, resting on decision D26): after a completed cycle blocked is 1 exactly when the cycle was
a wait-for-key that found no key; and no instruction reads it. -/
def Obligations.BlockedExactlyAfterAnUnansweredWait : Prop :=
  (∀ i s t, s.halted = false → exec i s = .next t → t.halted = false →
    (t.blocked = true ↔ (∃ x, i = .ldVxK x) ∧ ∀ k : Nibble, s.key[k] = false)) ∧
  (∀ i s b, ∃ t u, exec i s = .next t ∧ exec i { s with blocked := b } = .next u ∧ u = { t with blocked := u.blocked })

/-! ### Invariants -/

/-- Every step keeps the state invariant: canonical memory; a reason exactly when halted; a blocked core is at the
wait-for-key it repeats; a halted core is not blocked. Rests on decisions D9 and D26 of the spec. -/
def Obligations.StepKeepsTheStateInvariant : Prop :=
  ∀ s t, StateInv s → step s = .next t → StateInv t

/-- The state after reset meets the state invariant. -/
def Obligations.ResetMeetsTheStateInvariant : Prop := StateInv State.reset

/-- 60_exceptions.md section 8: every state that construction with any configuration, seed and ROM and any sequence of
host moves can bring about meets the state invariant. -/
def Obligations.ReachableStatesMeetTheInvariant : Prop := ∀ s, Reachable s → StateInv s

/-- Two canonical memories that read alike at every address are equal lists (the model's choice of a canonical form,
log entry 3). -/
def Obligations.CanonicalMemoriesReadingAlikeAreEqual : Prop :=
  ∀ m n : Memory, m.wf → n.wf → (∀ a, a < memSize → m.read a = n.read a) → m = n

/-! ### Reset, ROM load, ports -/

/-- 10_state.md section 10 and 70_reset_and_hazards.md section 1 (R50, R290, R291): the reset values, which are the
spec's decisions D1, D2, D4, D5, D9 and D26; the font byte of glyph d, row k stands at 0x050 + 5 d + k. -/
def Obligations.ResetStateValues : Prop :=
  let s := State.reset
  (∀ r, s.reg r = 0) ∧ s.I = 0 ∧ s.pc = 0x0200 ∧ (∀ j : Fin 16, s.stack[j] = 0) ∧ s.SP.val = 0 ∧ s.DT = 0 ∧
  s.ST = 0 ∧ (∀ px py, pixelAt s.fb px py = false) ∧ (∀ k : Nibble, s.key[k] = false) ∧ s.halted = false ∧
  s.haltReason = .none ∧ s.blocked = false ∧
  s.mem.readBytes 0x050 80 =
    [0xF0, 0x90, 0x90, 0x90, 0xF0, 0x20, 0x60, 0x20, 0x20, 0x70, 0xF0, 0x10, 0xF0, 0x80, 0xF0, 0xF0, 0x10, 0xF0, 0x10, 0xF0] ++
    [0x90, 0x90, 0xF0, 0x10, 0x10, 0xF0, 0x80, 0xF0, 0x10, 0xF0, 0xF0, 0x80, 0xF0, 0x90, 0xF0, 0xF0, 0x10, 0x20, 0x40, 0x40] ++
    [0xF0, 0x90, 0xF0, 0x90, 0xF0, 0xF0, 0x90, 0xF0, 0x10, 0xF0, 0xF0, 0x90, 0xF0, 0x90, 0x90, 0xE0, 0x90, 0xE0, 0x90, 0xE0] ++
    [0xF0, 0x80, 0x80, 0x80, 0xF0, 0xE0, 0x90, 0x90, 0x90, 0xE0, 0xF0, 0x80, 0xF0, 0x80, 0xF0, 0xF0, 0x80, 0xF0, 0x80, 0x80] ∧
  (∀ a, a < 0x050 ∨ (0x09F < a ∧ a < 4096) → memRead s a = 0)

/-- 60_exceptions.md section 3 and 70_reset_and_hazards.md section 1 (R270, R290; decisions D4, D5, D30): a requested
reset takes the core out of a halt, whatever state it was in, clears the halt status and memory above the font, and leaves the generator and
the configuration as they are. -/
def Obligations.ResetIsTheWayOutOfAHalt : Prop :=
  ∀ s : State, (resetPort s).halted = false ∧ (resetPort s).haltReason = .none ∧ (resetPort s).pc = 0x0200 ∧
    (∀ a, memRead (resetPort s) a = memRead State.reset a) ∧ (resetPort s).rngState = s.rngState ∧
    (resetPort s).cfg = s.cfg ∧ ∃ t, step (resetPort s) = .next t

/-- 70_reset_and_hazards.md section 1 (R292; R293 with decision D27): a ROM of at most 3584 bytes is loaded verbatim
from 0x200, every other byte keeps its value, and the load returns NONE; a larger one returns ROM_TOO_LARGE and changes
nothing. -/
def Obligations.RomLoadIsVerbatimOrRejected : Prop :=
  ∀ (rom : List Byte) (s : State),
    (rom.length ≤ 3584 → ∃ t, loadRom rom s = (.none, t) ∧
      (∀ k (h : k < rom.length), memRead t (0x200 + k) = rom[k]) ∧
      (∀ a, a < 4096 → a < 0x200 ∨ 0x200 + rom.length ≤ a → memRead t a = memRead s a) ∧ t = { s with mem := t.mem }) ∧
    (3584 < rom.length → loadRom rom s = (.romTooLarge, s))

/-- 44_display.md (R220, R224; the row-major order is decision D18): the fb port presents pixel (px, py) at element
py * 64 + px as 0xFFFFFFFF when on and 0x00000000 when off. -/
def Obligations.FramebufferPortIsRowMajor : Prop :=
  ∀ (s : State) (px : Fin 64) (py : Fin 32) (h : py.val * 64 + px.val < 2048),
    (fbPort s)[py.val * 64 + px.val] = if pixelAt s.fb px py then 0xFFFFFFFF#32 else 0x00000000#32

/-! ### Whole-machine rules -/

/-- 10_state.md section 6 (R42, R52): the key latch is written by the host and by no instruction, and read by the two
skip instructions and the blocking wait alone: any other instruction does the same whatever the latch holds. -/
def Obligations.KeyLatchIsReadByThreeAndWrittenByNone : Prop :=
  (∀ i s t, exec i s = .next t → t.key = s.key) ∧
  (∀ k s, hostMove (.writeKeys k) s = some { s with key := k }) ∧
  (∀ i s k, (∀ x, i ≠ .skp x ∧ i ≠ .sknp x ∧ i ≠ .ldVxK x) →
    exec i (writeKeys k s) = mapNext (writeKeys k) (exec i s))

/-- 10_state.md section 7 (R46): the configuration is written by nothing, the host's moves included; SHIFT_VARIANT and
LDST_VARIANT are read by 8XY6, 8XYE, FX55 and FX65 alone. -/
def Obligations.ConfigurationIsReadByFourAndWrittenByNone : Prop :=
  (∀ i s t, exec i s = .next t → t.cfg = s.cfg) ∧ (∀ m s t, hostMove m s = some t → t.cfg = s.cfg) ∧
  (∀ i s c, (∀ x y, i ≠ .shrVxVy x y ∧ i ≠ .shlVxVy x y ∧ i ≠ .ldMiVx x ∧ i ≠ .ldVxMi x) →
    exec i { s with cfg := c } = mapNext (fun t => { t with cfg := c }) (exec i s))

/-- R39: ST is written by FX18 and by the countdown and read by no instruction: two runs of an instruction that differ
in ST alone end in states that differ in ST alone. -/
def Obligations.SoundTimerIsReadByNoInstruction : Prop :=
  (∀ i s v, ∃ t u, exec i s = .next t ∧ exec i { s with ST := v } = .next u ∧ u = { t with ST := u.ST }) ∧
  (∀ x s, ∃ t, exec (.ldStVx x) s = .next t ∧ t.ST.toNat = (s.reg x).toNat - 1) ∧
  (∀ i s t, s.halted = false → exec i s = .next t → t.halted = false → (∀ x, i ≠ .ldStVx x) →
    t.ST.toNat = s.ST.toNat - 1) ∧
  (∀ s, stPort s = s.ST)

/-- R38: DT is written by FX15, read by FX07 and by no other instruction, and decremented once per cycle if nonzero;
reaching zero raises nothing: two runs of any other instruction that differ in DT alone end in states that differ in DT
alone, halt status included. -/
def Obligations.DelayTimerIsReadByOneInstruction : Prop :=
  (∀ i s v, (∀ x, i ≠ .ldVxDt x) →
    ∃ t u, exec i s = .next t ∧ exec i { s with DT := v } = .next u ∧ u = { t with DT := u.DT }) ∧
  (∀ x s, ∃ t, exec (.ldVxDt x) s = .next t ∧ t.reg x = s.DT) ∧
  (∀ x s, ∃ t, exec (.ldDtVx x) s = .next t ∧ t.DT.toNat = (s.reg x).toNat - 1) ∧
  (∀ i s t, s.halted = false → exec i s = .next t → t.halted = false → (∀ x, i ≠ .ldDtVx x) →
    t.DT.toNat = s.DT.toNat - 1)

/-- 10_state.md sections 4, 6 and 7, 20_memory.md section 4 (R36, R37, R41, R43, R49, R75; some marked derived or
decided, D8, D16): the index register, the call stack, memory, the framebuffer and the generator are each written only by
their own instructions. -/
def Obligations.StateElementsAreWrittenOnlyByTheirInstructions : Prop :=
  ∀ i s t, exec i s = .next t →
    ((∀ n x, i ≠ .ldIAddr n ∧ i ≠ .addIVx x ∧ i ≠ .ldFVx x) →
      (∀ x, s.cfg.ldst = .keepI ∨ (i ≠ .ldMiVx x ∧ i ≠ .ldVxMi x)) → KeepsIndex s t) ∧
    ((∀ n, i ≠ .call n ∧ i ≠ .ret) → KeepsStack s t) ∧
    ((∀ x, i ≠ .ldBVx x ∧ i ≠ .ldMiVx x) → KeepsMemory s t) ∧
    ((∀ x y n, i ≠ .cls ∧ i ≠ .drw x y n) → KeepsScreen s t) ∧
    ((∀ x kk, i ≠ .rnd x kk) → KeepsRng s t)

/-- 10_state.md section 2 (R32, with decisions D19 and D20 for 8XY1 to 8XY3 and 7XKK): an instruction writes no general
register but its destination, VF where it is one of the six that write it as a side effect, and V0 to Vx in FX65. -/
def Obligations.RegistersWrittenAreTheNamedOnes : Prop :=
  ∀ i s t r, exec i s = .next t → mayWriteReg i r = false → t.reg r = s.reg r

/-- 20_memory.md section 6 and 70_reset_and_hazards.md section 3 (R82, R299, marked derived): a store by FX55 or FX33 to
the address of the next instruction is what the next cycle fetches. -/
def Obligations.StoresAreFetchedByTheNextCycle : Prop :=
  ∀ (x : Reg) (s : State), s.I.toNat % 4096 = (s.pc + 2).toNat % 4096 →
    (1 ≤ x.val → ∃ t, exec (.ldMiVx x) s = .next t ∧ fetchWord t = wordOfBytes (s.reg 0) (s.reg 1)) ∧
    (∃ t, exec (.ldBVx x) s = .next t ∧
      (fetchWord t).toNat = (s.reg x).toNat / 100 * 256 + (s.reg x).toNat / 10 % 10)

/-! ### Control transfer -/

/-- R154: JP addr. -/
def Obligations.JumpSetsPc : Prop :=
  (∀ w, opField w = 0x1 → decodeWord w = .jp (nnnField w)) ∧
  ∀ nnn s, ∃ t, exec (.jp nnn) s = .next t ∧ t.pc.toNat = nnn.toNat ∧ RegisterFrame [] s t ∧ ClosesCycle s t t.pc

/-- 41_control_flow.md section 2 (R155; the depth is decision D8): CALL addr pushes the address after it
and jumps; with 16 entries in use it halts with STACK_OVERFLOW and nothing else changes. -/
def Obligations.CallPushesAndJumps : Prop :=
  (∀ w, opField w = 0x2 → decodeWord w = .call (nnnField w)) ∧
  ∀ nnn s,
    (s.SP.val < 16 → ∃ t, exec (.call nnn) s = .next t ∧ t.pc.toNat = nnn.toNat ∧ t.SP.val = s.SP.val + 1 ∧
      (∀ j : Fin 16, t.stack[j] = if j.val = s.SP.val then s.pc + 2 else s.stack[j]) ∧
      KeepsRegsBut [] s t ∧ KeepsIndex s t ∧ KeepsMemory s t ∧ KeepsScreen s t ∧ KeepsRng s t ∧
      ClosesCycle s t t.pc) ∧
    (s.SP.val = 16 → ∃ t, exec (.call nnn) s = .next t ∧ HaltsWith .stackOverflow s t)

/-- 41_control_flow.md section 2 (R153, R263; the ignored bits are decision D21): RET pops the most recent return
address into pc with no +2; with an empty stack it halts with STACK_UNDERFLOW and nothing else changes. -/
def Obligations.ReturnPopsOrUnderflows : Prop :=
  (∀ w, opField w = 0x0 → nField w = 0xE → decodeWord w = .ret) ∧
  ∀ s : State,
    (∀ h : 0 < s.SP.val, ∃ t, exec .ret s = .next t ∧ t.pc = s.stack[s.SP.val - 1]'(by have := s.SP.isLt; omega) ∧
      t.SP.val = s.SP.val - 1 ∧ t.stack = s.stack ∧ KeepsRegsBut [] s t ∧ KeepsIndex s t ∧ KeepsMemory s t ∧
      KeepsScreen s t ∧ KeepsRng s t ∧ ClosesCycle s t t.pc) ∧
    (s.SP.val = 0 → ∃ t, exec .ret s = .next t ∧ HaltsWith .stackUnderflow s t)

/-- 41_control_flow.md sections 1 and 2 (R151 to R155; depth: decision D8): a RET after a CALL comes back to the address
after the CALL, with the stack pointer and every entry below it as before. -/
def Obligations.ReturnUndoesCall : Prop :=
  ∀ nnn s, s.SP.val < 16 → ∃ t u, exec (.call nnn) s = .next t ∧ exec .ret t = .next u ∧ u.pc = s.pc + 2 ∧
    u.SP = s.SP ∧ ∀ j : Fin 16, j.val < s.SP.val → u.stack[j] = s.stack[j]

/-- R156, R157: SE Vx, byte and SNE Vx, byte. -/
def Obligations.SkipsOnByteComparison : Prop :=
  (∀ w, opField w = 0x3 → decodeWord w = .seVxByte (xField w) (kkField w)) ∧
  (∀ w, opField w = 0x4 → decodeWord w = .sneVxByte (xField w) (kkField w)) ∧
  ∀ x kk s,
    (∃ t, exec (.seVxByte x kk) s = .next t ∧ RegisterFrame [] s t ∧
      ClosesCycle s t (if (s.reg x).toNat = kk.toNat then s.pc + 4 else s.pc + 2)) ∧
    (∃ t, exec (.sneVxByte x kk) s = .next t ∧ RegisterFrame [] s t ∧
      ClosesCycle s t (if (s.reg x).toNat = kk.toNat then s.pc + 2 else s.pc + 4))

/-- 41_control_flow.md section 2 (R158, R159; the ignored bits are decision D21): SE Vx, Vy and SNE Vx, Vy, whatever
w[3:0] is. -/
def Obligations.SkipsOnRegisterComparison : Prop :=
  (∀ w, opField w = 0x5 → decodeWord w = .seVxVy (xField w) (yField w)) ∧
  (∀ w, opField w = 0x9 → decodeWord w = .sneVxVy (xField w) (yField w)) ∧
  ∀ x y s,
    (∃ t, exec (.seVxVy x y) s = .next t ∧ RegisterFrame [] s t ∧
      ClosesCycle s t (if (s.reg x).toNat = (s.reg y).toNat then s.pc + 4 else s.pc + 2)) ∧
    (∃ t, exec (.sneVxVy x y) s = .next t ∧ RegisterFrame [] s t ∧
      ClosesCycle s t (if (s.reg x).toNat = (s.reg y).toNat then s.pc + 2 else s.pc + 4))

/-- 41_control_flow.md section 2 (R160; that the next fetch masks pc is decision D6): JP V0, addr stores the sum
unmasked, and the next fetch reads at the masked address. -/
def Obligations.JumpWithOffsetIsUnmasked : Prop :=
  (∀ w, opField w = 0xB → decodeWord w = .jpV0Addr (nnnField w)) ∧
  ∀ nnn s, ∃ t, exec (.jpV0Addr nnn) s = .next t ∧ t.pc.toNat = nnn.toNat + (s.reg 0).toNat ∧
    RegisterFrame [] s t ∧ ClosesCycle s t t.pc ∧
    fetchWord t = wordOfBytes (memRead s ((nnn.toNat + (s.reg 0).toNat) % 4096))
      (memRead s ((nnn.toNat + (s.reg 0).toNat + 1) % 4096))

/-- R136: the no-op handler changes nothing but pc and the timers, and never blocks or halts, for every no-op word: SYS
and the empty slots of tables T8, TE and TF. -/
def Obligations.NoOpsOnlyAdvance : Prop :=
  (∀ w, opField w = 0x0 → nField w ≠ 0x0 → nField w ≠ 0xE → decodeWord w = .sys (nnnField w)) ∧
  (∀ w, opField w = 0x8 → nField w ∈ ([0x8, 0x9, 0xA, 0xB, 0xC, 0xD, 0xF] : List Nibble) →
    decodeWord w = .nopT8 (xField w) (yField w) (nField w)) ∧
  (∀ w, opField w = 0xE → nField w ≠ 0x1 → nField w ≠ 0xE → decodeWord w = .nopTe (xField w) (yField w) (nField w)) ∧
  (∀ w, opField w = 0xF → kkField w ∉ ([0x07, 0x0A, 0x15, 0x18, 0x1E, 0x29, 0x33, 0x55, 0x65] : List Byte) →
    decodeWord w = .nopTf (xField w) (kkField w)) ∧
  ∀ (i : Instr) (s : State),
    ((∃ nnn, i = .sys nnn) ∨ (∃ x y n, i = .nopT8 x y n) ∨ (∃ x m n, i = .nopTe x m n) ∨ (∃ x kk, i = .nopTf x kk)) →
    ∃ t, exec i s = .next t ∧ RegisterFrame [] s t ∧ ClosesCycle s t (s.pc + 2)

/-! ### Arithmetic -/

/-- R171, R173: LD Vx, byte and LD Vx, Vy. -/
def Obligations.LoadsWriteTheDestination : Prop :=
  (∀ w, opField w = 0x6 → decodeWord w = .ldVxByte (xField w) (kkField w)) ∧
  (∀ w, opField w = 0x8 → nField w = 0x0 → decodeWord w = .ldVxVy (xField w) (yField w)) ∧
  ∀ x y kk s,
    (∃ t, exec (.ldVxByte x kk) s = .next t ∧ t.reg x = kk ∧ RegisterFrame [x] s t ∧ ClosesCycle s t (s.pc + 2)) ∧
    (∃ t, exec (.ldVxVy x y) s = .next t ∧ t.reg x = s.reg y ∧ RegisterFrame [x] s t ∧ ClosesCycle s t (s.pc + 2))

/-- 42_alu.md section 2 (R172, resting on decision D20 for VF): ADD Vx, byte, modulo 2^8, VF not written. -/
def Obligations.AddByteWithoutCarry : Prop :=
  (∀ w, opField w = 0x7 → decodeWord w = .addVxByte (xField w) (kkField w)) ∧
  ∀ x kk s, ∃ t, exec (.addVxByte x kk) s = .next t ∧ (t.reg x).toNat = ((s.reg x).toNat + kk.toNat) % 256 ∧
    RegisterFrame [x] s t ∧ ClosesCycle s t (s.pc + 2)

/-- 42_alu.md section 3 (R174 to R176, resting on decision D19 for VF): OR, AND and XOR bit by bit, VF not written. -/
def Obligations.LogicIsBitwise : Prop :=
  (∀ w, opField w = 0x8 → nField w = 0x1 → decodeWord w = .orVxVy (xField w) (yField w)) ∧
  (∀ w, opField w = 0x8 → nField w = 0x2 → decodeWord w = .andVxVy (xField w) (yField w)) ∧
  (∀ w, opField w = 0x8 → nField w = 0x3 → decodeWord w = .xorVxVy (xField w) (yField w)) ∧
  ∀ x y s,
    (∃ t, exec (.orVxVy x y) s = .next t ∧ RegisterFrame [x] s t ∧ ClosesCycle s t (s.pc + 2) ∧
      ∀ k, (t.reg x).getLsbD k = ((s.reg x).getLsbD k || (s.reg y).getLsbD k)) ∧
    (∃ t, exec (.andVxVy x y) s = .next t ∧ RegisterFrame [x] s t ∧ ClosesCycle s t (s.pc + 2) ∧
      ∀ k, (t.reg x).getLsbD k = ((s.reg x).getLsbD k && (s.reg y).getLsbD k)) ∧
    (∃ t, exec (.xorVxVy x y) s = .next t ∧ RegisterFrame [x] s t ∧ ClosesCycle s t (s.pc + 2) ∧
      ∀ k, (t.reg x).getLsbD k = ((s.reg x).getLsbD k ^^ (s.reg y).getLsbD k))

/-- R177: ADD Vx, Vy, modulo 2^8, VF = carry; for x = 15 VF ends with the sum. -/
def Obligations.AddSetsCarry : Prop :=
  (∀ w, opField w = 0x8 → nField w = 0x4 → decodeWord w = .addVxVy (xField w) (yField w)) ∧
  ∀ x y s, ∃ t, exec (.addVxVy x y) s = .next t ∧
    (t.reg x).toNat = ((s.reg x).toNat + (s.reg y).toNat) % 256 ∧
    (x ≠ VF → (t.reg VF).toNat = if 255 < (s.reg x).toNat + (s.reg y).toNat then 1 else 0) ∧
    RegisterFrame [x, VF] s t ∧ ClosesCycle s t (s.pc + 2)

/-- 42_alu.md section 3 (R178, R180, resting on decisions D12 for x = 15 and D13 for SUBN's flag): SUB and SUBN, modulo
2^8, VF = 1 exactly when the minuend is strictly greater; for x = 15 VF ends with the difference. -/
def Obligations.SubtractSetsStrictNoBorrow : Prop :=
  (∀ w, opField w = 0x8 → nField w = 0x5 → decodeWord w = .subVxVy (xField w) (yField w)) ∧
  (∀ w, opField w = 0x8 → nField w = 0x7 → decodeWord w = .subnVxVy (xField w) (yField w)) ∧
  ∀ x y s,
    (∃ t, exec (.subVxVy x y) s = .next t ∧
      (t.reg x).toNat = ((s.reg x).toNat + 256 - (s.reg y).toNat) % 256 ∧
      (x ≠ VF → (t.reg VF).toNat = if (s.reg y).toNat < (s.reg x).toNat then 1 else 0) ∧
      RegisterFrame [x, VF] s t ∧ ClosesCycle s t (s.pc + 2)) ∧
    (∃ t, exec (.subnVxVy x y) s = .next t ∧
      (t.reg x).toNat = ((s.reg y).toNat + 256 - (s.reg x).toNat) % 256 ∧
      (x ≠ VF → (t.reg VF).toNat = if (s.reg x).toNat < (s.reg y).toNat then 1 else 0) ∧
      RegisterFrame [x, VF] s t ∧ ClosesCycle s t (s.pc + 2))

/-- 42_alu.md section 3 (R179, R181, resting on decision D12 for x = 15): SHR and SHL by one, from Vx under
SHIFT_VARIANT = A and from Vy under B, VF = the bit shifted out; for x = 15 VF ends with the result. -/
def Obligations.ShiftsMoveOneBitOut : Prop :=
  (∀ w, opField w = 0x8 → nField w = 0x6 → decodeWord w = .shrVxVy (xField w) (yField w)) ∧
  (∀ w, opField w = 0x8 → nField w = 0xE → decodeWord w = .shlVxVy (xField w) (yField w)) ∧
  ∀ x y s src, (s.cfg.shift = .A → src = s.reg x) → (s.cfg.shift = .B → src = s.reg y) →
    (∃ t, exec (.shrVxVy x y) s = .next t ∧ (t.reg x).toNat = src.toNat / 2 ∧
      (x ≠ VF → (t.reg VF).toNat = src.toNat % 2) ∧ RegisterFrame [x, VF] s t ∧ ClosesCycle s t (s.pc + 2)) ∧
    (∃ t, exec (.shlVxVy x y) s = .next t ∧ (t.reg x).toNat = src.toNat * 2 % 256 ∧
      (x ≠ VF → (t.reg VF).toNat = src.toNat / 128) ∧ RegisterFrame [x, VF] s t ∧ ClosesCycle s t (s.pc + 2))

/-- 42_alu.md section 4 (R182; the free draw is decision D16 and log entry 1): RND draws one byte, whatever the mask,
and writes it ANDed with the mask; nothing is said of the byte's value. -/
def Obligations.RandomDrawsOneByteUnderTheMask : Prop :=
  (∀ w, opField w = 0xC → decodeWord w = .rnd (xField w) (kkField w)) ∧
  ∀ x kk s, ∃ t, exec (.rnd x kk) s = .next t ∧
    t.reg x = Config.rngByte s.rngState.seed s.rngState.draws &&& kk ∧ (t.reg x).toNat ≤ kk.toNat ∧
    t.rngState.seed = s.rngState.seed ∧ t.rngState.draws = s.rngState.draws + 1 ∧
    KeepsRegsBut [x] s t ∧ KeepsIndex s t ∧ KeepsStack s t ∧ KeepsMemory s t ∧ KeepsScreen s t ∧
    ClosesCycle s t (s.pc + 2)

/-! ### Index and memory -/

/-- R200, R201: LD I, addr and ADD I, Vx: I takes the full 16-bit value, VF is not touched. -/
def Obligations.IndexLoadsAndAdds : Prop :=
  (∀ w, opField w = 0xA → decodeWord w = .ldIAddr (nnnField w)) ∧
  (∀ w, opField w = 0xF → kkField w = 0x1E → decodeWord w = .addIVx (xField w)) ∧
  ∀ nnn x s,
    (∃ t, exec (.ldIAddr nnn) s = .next t ∧ t.I.toNat = nnn.toNat ∧ KeepsRegsBut [] s t ∧ KeepsStack s t ∧
      KeepsMemory s t ∧ KeepsScreen s t ∧ KeepsRng s t ∧ ClosesCycle s t (s.pc + 2)) ∧
    (∃ t, exec (.addIVx x) s = .next t ∧ t.I.toNat = (s.I.toNat + (s.reg x).toNat) % 65536 ∧ KeepsRegsBut [] s t ∧
      KeepsStack s t ∧ KeepsMemory s t ∧ KeepsScreen s t ∧ KeepsRng s t ∧ ClosesCycle s t (s.pc + 2))

/-- 43_index_memory.md (R202; FONT_BASE is decision D1): LD F, Vx points I at the glyph of the digit; a digit above 15
halts with FONT_DIGIT_OUT_OF_RANGE and nothing else changes. -/
def Obligations.FontDigitSelectsGlyph : Prop :=
  (∀ w, opField w = 0xF → kkField w = 0x29 → decodeWord w = .ldFVx (xField w)) ∧
  ∀ x s,
    ((s.reg x).toNat ≤ 15 → ∃ t, exec (.ldFVx x) s = .next t ∧ t.I.toNat = 0x050 + 5 * (s.reg x).toNat ∧
      KeepsRegsBut [] s t ∧ KeepsStack s t ∧ KeepsMemory s t ∧ KeepsScreen s t ∧ KeepsRng s t ∧
      ClosesCycle s t (s.pc + 2)) ∧
    (15 < (s.reg x).toNat → ∃ t, exec (.ldFVx x) s = .next t ∧ HaltsWith .fontDigitOutOfRange s t)

/-- R203: LD B, Vx stores the three decimal digits of Vx at I, I + 1, I + 2, each address masked, and changes no other
byte; I is not changed. -/
def Obligations.BcdStoresThreeDigits : Prop :=
  (∀ w, opField w = 0xF → kkField w = 0x33 → decodeWord w = .ldBVx (xField w)) ∧
  ∀ x s, ∃ t, exec (.ldBVx x) s = .next t ∧
    (memRead t (s.I.toNat + 0)).toNat = (s.reg x).toNat / 100 ∧
    (memRead t (s.I.toNat + 1)).toNat = (s.reg x).toNat / 10 % 10 ∧
    (memRead t (s.I.toNat + 2)).toNat = (s.reg x).toNat % 10 ∧ KeepsMemoryBut s.I.toNat 3 s t ∧
    KeepsRegsBut [] s t ∧ KeepsIndex s t ∧ KeepsStack s t ∧ KeepsScreen s t ∧ KeepsRng s t ∧
    ClosesCycle s t (s.pc + 2)

/-- R204: LD [I], Vx stores V0 to Vx at consecutive masked addresses from I and changes no other byte; I stays under
KEEP_I and advances by x + 1 modulo 2^16 under ADVANCE_I. -/
def Obligations.RegisterDumpStoresUpToX : Prop :=
  (∀ w, opField w = 0xF → kkField w = 0x55 → decodeWord w = .ldMiVx (xField w)) ∧
  ∀ x s, ∃ t, exec (.ldMiVx x) s = .next t ∧ (∀ r : Reg, r ≤ x → memRead t (s.I.toNat + r.val) = s.reg r) ∧
    KeepsMemoryBut s.I.toNat (x.val + 1) s t ∧ (s.cfg.ldst = .keepI → t.I = s.I) ∧
    (s.cfg.ldst = .advanceI → t.I.toNat = (s.I.toNat + x.val + 1) % 65536) ∧
    KeepsRegsBut [] s t ∧ KeepsStack s t ∧ KeepsScreen s t ∧ KeepsRng s t ∧ ClosesCycle s t (s.pc + 2)

/-- R205: LD Vx, [I] loads V0 to Vx from consecutive masked addresses from I, keeps the registers above x and all of
memory; I stays under KEEP_I and advances by x + 1 modulo 2^16 under ADVANCE_I. -/
def Obligations.RegisterLoadReadsUpToX : Prop :=
  (∀ w, opField w = 0xF → kkField w = 0x65 → decodeWord w = .ldVxMi (xField w)) ∧
  ∀ x s, ∃ t, exec (.ldVxMi x) s = .next t ∧ (∀ r : Reg, r ≤ x → t.reg r = memRead s (s.I.toNat + r.val)) ∧
    (∀ r : Reg, x < r → t.reg r = s.reg r) ∧ (s.cfg.ldst = .keepI → t.I = s.I) ∧
    (s.cfg.ldst = .advanceI → t.I.toNat = (s.I.toNat + x.val + 1) % 65536) ∧
    KeepsMemory s t ∧ KeepsStack s t ∧ KeepsScreen s t ∧ KeepsRng s t ∧ ClosesCycle s t (s.pc + 2)

/-- 95_test_vectors.md section 1, S9: a dump from index i0, then a load from i0 into any register file, gives back V0 to
Vx and leaves the registers above x; under ADVANCE_I each leaves I = i0 + x + 1. -/
def Obligations.DumpThenLoadGivesTheRegistersBack : Prop :=
  ∀ (x : Reg) (s : State) (zeroed : Vector Byte 16), ∃ t u, exec (.ldMiVx x) s = .next t ∧
    exec (.ldVxMi x) { t with V := zeroed, I := s.I } = .next u ∧
    (∀ r : Reg, r ≤ x → u.reg r = s.reg r) ∧ (∀ r : Reg, x < r → u.reg r = zeroed[r]) ∧
    (s.cfg.ldst = .advanceI → t.I.toNat = (s.I.toNat + x.val + 1) % 65536 ∧ u.I = t.I)

/-! ### Display -/

/-- 44_display.md (R221; the ignored bits are decision D21): CLS turns every pixel off, writes nothing else, and is idempotent. -/
def Obligations.ClearScreenTurnsEveryPixelOff : Prop :=
  (∀ w, opField w = 0x0 → nField w = 0x0 → decodeWord w = .cls) ∧
  ∀ s, ∃ t, exec .cls s = .next t ∧ (∀ px py, pixelAt t.fb px py = false) ∧ KeepsRegsBut [] s t ∧ KeepsIndex s t ∧
    KeepsStack s t ∧ KeepsMemory s t ∧ KeepsRng s t ∧ ClosesCycle s t (s.pc + 2) ∧
    ∃ u, exec .cls t = .next u ∧ u.fb = t.fb

/-- 44_display.md (R222, R223; the bit order is decision D18): DRW flips exactly the pixels the sprite's 1 bits fall on,
each wrapped on its own, with coordinates read before VF is written; VF = 1 exactly when one of them was on. The
meaning's loops over rows and columns agree with this description pixel by pixel. -/
def Obligations.DrawFlipsExactlyTheSpritePixels : Prop :=
  (∀ w, opField w = 0xD → decodeWord w = .drw (xField w) (yField w) (nField w)) ∧
  ∀ x y n s, ∃ t, exec (.drw x y n) s = .next t ∧
    (∀ px py, SpriteHits x y n s px py → pixelAt t.fb px py = !(pixelAt s.fb px py)) ∧
    (∀ px py, ¬ SpriteHits x y n s px py → pixelAt t.fb px py = pixelAt s.fb px py) ∧
    ((∃ px py, SpriteHits x y n s px py ∧ pixelAt s.fb px py = true) → t.reg VF = 1) ∧
    ((∀ px py, SpriteHits x y n s px py → pixelAt s.fb px py = false) → t.reg VF = 0) ∧
    KeepsRegsBut [VF] s t ∧ KeepsIndex s t ∧ KeepsStack s t ∧ KeepsMemory s t ∧ KeepsRng s t ∧
    ClosesCycle s t (s.pc + 2)

/-- 95_test_vectors.md section 1, S7, for every sprite: drawing the same sprite twice at coordinates that are not taken
from VF restores every pixel, and the second draw sets VF to 0 or 1 as the first left any sprite pixel off or on. -/
def Obligations.DrawingTwiceRestoresTheScreen : Prop :=
  ∀ x y n s, x ≠ VF → y ≠ VF → ∃ t u, exec (.drw x y n) s = .next t ∧ exec (.drw x y n) t = .next u ∧
    (∀ px py, pixelAt u.fb px py = pixelAt s.fb px py) ∧
    ((∃ px py, SpriteHits x y n s px py ∧ pixelAt s.fb px py = false) → u.reg VF = 1) ∧
    ((∀ px py, SpriteHits x y n s px py → pixelAt s.fb px py = true) → u.reg VF = 0)

/-! ### Keys and timers -/

/-- 45_input_timers.md section 1 (R240 to R242, resting on decision D11): SKP and SKNP skip on the level of the key named
by Vx; a key index above 15 halts with KEY_INDEX_OUT_OF_RANGE and nothing else changes. -/
def Obligations.KeySkipsReadTheLevel : Prop :=
  (∀ w, opField w = 0xE → nField w = 0xE → decodeWord w = .skp (xField w)) ∧
  (∀ w, opField w = 0xE → nField w = 0x1 → decodeWord w = .sknp (xField w)) ∧
  ∀ x s,
    (∀ k : Nibble, (s.reg x).toNat = k.val →
      (∃ t, exec (.skp x) s = .next t ∧ RegisterFrame [] s t ∧
        ClosesCycle s t (if s.key[k] = true then s.pc + 4 else s.pc + 2)) ∧
      (∃ t, exec (.sknp x) s = .next t ∧ RegisterFrame [] s t ∧
        ClosesCycle s t (if s.key[k] = true then s.pc + 2 else s.pc + 4))) ∧
    (15 < (s.reg x).toNat →
      (∃ t, exec (.skp x) s = .next t ∧ HaltsWith .keyIndexOutOfRange s t) ∧
      (∃ t, exec (.sknp x) s = .next t ∧ HaltsWith .keyIndexOutOfRange s t))

/-- 45_input_timers.md section 1 (R243, resting on decision D17 for the lowest index and D26 for blocked): LD Vx, K
stores the lowest pressed key and goes on; with no key pressed pc is back at the instruction, the timers still tick, and blocked is 1. -/
def Obligations.WaitForKeyStoresLowestOrRepeats : Prop :=
  (∀ w, opField w = 0xF → kkField w = 0x0A → decodeWord w = .ldVxK (xField w)) ∧
  ∀ x s,
    (∀ k : Nibble, s.key[k] = true → (∀ j : Nibble, j < k → s.key[j] = false) →
      ∃ t, exec (.ldVxK x) s = .next t ∧ (t.reg x).toNat = k.val ∧ RegisterFrame [x] s t ∧
        ClosesCycle s t (s.pc + 2)) ∧
    ((∀ k : Nibble, s.key[k] = false) →
      ∃ t, exec (.ldVxK x) s = .next t ∧ t.pc = s.pc ∧ t.blocked = true ∧ TimersTicked s t ∧ RegisterFrame [] s t ∧
        KeepsInputsAndStatus s t)

/-- R244: LD Vx, DT reads the delay timer before this cycle's countdown. -/
def Obligations.DelayTimerIsReadBeforeTheTick : Prop :=
  (∀ w, opField w = 0xF → kkField w = 0x07 → decodeWord w = .ldVxDt (xField w)) ∧
  ∀ x s, ∃ t, exec (.ldVxDt x) s = .next t ∧ t.reg x = s.DT ∧ RegisterFrame [x] s t ∧ ClosesCycle s t (s.pc + 2)

/-- 45_input_timers.md section 2 (R245, R246; the value after the cycle is marked derived): LD DT, Vx and LD ST, Vx write
the timer, and the same cycle's countdown follows. -/
def Obligations.TimerWritesAreTickedAtOnce : Prop :=
  (∀ w, opField w = 0xF → kkField w = 0x15 → decodeWord w = .ldDtVx (xField w)) ∧
  (∀ w, opField w = 0xF → kkField w = 0x18 → decodeWord w = .ldStVx (xField w)) ∧
  ∀ x s,
    (∃ t, exec (.ldDtVx x) s = .next t ∧ t.DT.toNat = (s.reg x).toNat - 1 ∧ t.ST.toNat = s.ST.toNat - 1 ∧
      t.pc = s.pc + 2 ∧ t.blocked = false ∧ KeepsInputsAndStatus s t ∧ RegisterFrame [] s t) ∧
    (∃ t, exec (.ldStVx x) s = .next t ∧ t.ST.toNat = (s.reg x).toNat - 1 ∧ t.DT.toNat = s.DT.toNat - 1 ∧
      t.pc = s.pc + 2 ∧ t.blocked = false ∧ KeepsInputsAndStatus s t ∧ RegisterFrame [] s t)
end

