-- ==== Sys2Proof/Laws/State.lean ====
section
/-! SUPPORT. One lemma per field per update of State, true by rfl, so that no later proof unfolds a record update. -/

namespace Sys2Proof.Machine

@[simp] theorem setReg_V (s : State) (r : Reg) (v : Byte) : (s.setReg r v).V = s.V.set r v := rfl
@[simp] theorem setReg_I (s : State) (r : Reg) (v : Byte) : (s.setReg r v).I = s.I := rfl
@[simp] theorem setReg_pc (s : State) (r : Reg) (v : Byte) : (s.setReg r v).pc = s.pc := rfl
@[simp] theorem setReg_stack (s : State) (r : Reg) (v : Byte) : (s.setReg r v).stack = s.stack := rfl
@[simp] theorem setReg_SP (s : State) (r : Reg) (v : Byte) : (s.setReg r v).SP = s.SP := rfl
@[simp] theorem setReg_DT (s : State) (r : Reg) (v : Byte) : (s.setReg r v).DT = s.DT := rfl
@[simp] theorem setReg_ST (s : State) (r : Reg) (v : Byte) : (s.setReg r v).ST = s.ST := rfl
@[simp] theorem setReg_mem (s : State) (r : Reg) (v : Byte) : (s.setReg r v).mem = s.mem := rfl
@[simp] theorem setReg_fb (s : State) (r : Reg) (v : Byte) : (s.setReg r v).fb = s.fb := rfl
@[simp] theorem setReg_key (s : State) (r : Reg) (v : Byte) : (s.setReg r v).key = s.key := rfl
@[simp] theorem setReg_rngState (s : State) (r : Reg) (v : Byte) : (s.setReg r v).rngState = s.rngState := rfl
@[simp] theorem setReg_halted (s : State) (r : Reg) (v : Byte) : (s.setReg r v).halted = s.halted := rfl
@[simp] theorem setReg_haltReason (s : State) (r : Reg) (v : Byte) : (s.setReg r v).haltReason = s.haltReason := rfl
@[simp] theorem setReg_blocked (s : State) (r : Reg) (v : Byte) : (s.setReg r v).blocked = s.blocked := rfl
@[simp] theorem setReg_cfg (s : State) (r : Reg) (v : Byte) : (s.setReg r v).cfg = s.cfg := rfl

@[simp] theorem setI_V (s : State) (v : Word) : (s.setI v).V = s.V := rfl
@[simp] theorem setI_I (s : State) (v : Word) : (s.setI v).I = v := rfl
@[simp] theorem setI_pc (s : State) (v : Word) : (s.setI v).pc = s.pc := rfl
@[simp] theorem setI_stack (s : State) (v : Word) : (s.setI v).stack = s.stack := rfl
@[simp] theorem setI_SP (s : State) (v : Word) : (s.setI v).SP = s.SP := rfl
@[simp] theorem setI_DT (s : State) (v : Word) : (s.setI v).DT = s.DT := rfl
@[simp] theorem setI_ST (s : State) (v : Word) : (s.setI v).ST = s.ST := rfl
@[simp] theorem setI_mem (s : State) (v : Word) : (s.setI v).mem = s.mem := rfl
@[simp] theorem setI_fb (s : State) (v : Word) : (s.setI v).fb = s.fb := rfl
@[simp] theorem setI_key (s : State) (v : Word) : (s.setI v).key = s.key := rfl
@[simp] theorem setI_rngState (s : State) (v : Word) : (s.setI v).rngState = s.rngState := rfl
@[simp] theorem setI_halted (s : State) (v : Word) : (s.setI v).halted = s.halted := rfl
@[simp] theorem setI_haltReason (s : State) (v : Word) : (s.setI v).haltReason = s.haltReason := rfl
@[simp] theorem setI_blocked (s : State) (v : Word) : (s.setI v).blocked = s.blocked := rfl
@[simp] theorem setI_cfg (s : State) (v : Word) : (s.setI v).cfg = s.cfg := rfl

@[simp] theorem setPc_V (s : State) (v : Word) : (s.setPc v).V = s.V := rfl
@[simp] theorem setPc_I (s : State) (v : Word) : (s.setPc v).I = s.I := rfl
@[simp] theorem setPc_pc (s : State) (v : Word) : (s.setPc v).pc = v := rfl
@[simp] theorem setPc_stack (s : State) (v : Word) : (s.setPc v).stack = s.stack := rfl
@[simp] theorem setPc_SP (s : State) (v : Word) : (s.setPc v).SP = s.SP := rfl
@[simp] theorem setPc_DT (s : State) (v : Word) : (s.setPc v).DT = s.DT := rfl
@[simp] theorem setPc_ST (s : State) (v : Word) : (s.setPc v).ST = s.ST := rfl
@[simp] theorem setPc_mem (s : State) (v : Word) : (s.setPc v).mem = s.mem := rfl
@[simp] theorem setPc_fb (s : State) (v : Word) : (s.setPc v).fb = s.fb := rfl
@[simp] theorem setPc_key (s : State) (v : Word) : (s.setPc v).key = s.key := rfl
@[simp] theorem setPc_rngState (s : State) (v : Word) : (s.setPc v).rngState = s.rngState := rfl
@[simp] theorem setPc_halted (s : State) (v : Word) : (s.setPc v).halted = s.halted := rfl
@[simp] theorem setPc_haltReason (s : State) (v : Word) : (s.setPc v).haltReason = s.haltReason := rfl
@[simp] theorem setPc_blocked (s : State) (v : Word) : (s.setPc v).blocked = s.blocked := rfl
@[simp] theorem setPc_cfg (s : State) (v : Word) : (s.setPc v).cfg = s.cfg := rfl

@[simp] theorem advance_V (s : State) : (advance s).V = s.V := rfl
@[simp] theorem advance_I (s : State) : (advance s).I = s.I := rfl
@[simp] theorem advance_pc (s : State) : (advance s).pc = s.pc + 2 := rfl
@[simp] theorem advance_stack (s : State) : (advance s).stack = s.stack := rfl
@[simp] theorem advance_SP (s : State) : (advance s).SP = s.SP := rfl
@[simp] theorem advance_DT (s : State) : (advance s).DT = s.DT := rfl
@[simp] theorem advance_ST (s : State) : (advance s).ST = s.ST := rfl
@[simp] theorem advance_mem (s : State) : (advance s).mem = s.mem := rfl
@[simp] theorem advance_fb (s : State) : (advance s).fb = s.fb := rfl
@[simp] theorem advance_key (s : State) : (advance s).key = s.key := rfl
@[simp] theorem advance_rngState (s : State) : (advance s).rngState = s.rngState := rfl
@[simp] theorem advance_halted (s : State) : (advance s).halted = s.halted := rfl
@[simp] theorem advance_haltReason (s : State) : (advance s).haltReason = s.haltReason := rfl
@[simp] theorem advance_blocked (s : State) : (advance s).blocked = s.blocked := rfl
@[simp] theorem advance_cfg (s : State) : (advance s).cfg = s.cfg := rfl

@[simp] theorem skip_V (s : State) : (skip s).V = s.V := rfl
@[simp] theorem skip_I (s : State) : (skip s).I = s.I := rfl
@[simp] theorem skip_pc (s : State) : (skip s).pc = s.pc + 2 := rfl
@[simp] theorem skip_stack (s : State) : (skip s).stack = s.stack := rfl
@[simp] theorem skip_SP (s : State) : (skip s).SP = s.SP := rfl
@[simp] theorem skip_DT (s : State) : (skip s).DT = s.DT := rfl
@[simp] theorem skip_ST (s : State) : (skip s).ST = s.ST := rfl
@[simp] theorem skip_mem (s : State) : (skip s).mem = s.mem := rfl
@[simp] theorem skip_fb (s : State) : (skip s).fb = s.fb := rfl
@[simp] theorem skip_key (s : State) : (skip s).key = s.key := rfl
@[simp] theorem skip_rngState (s : State) : (skip s).rngState = s.rngState := rfl
@[simp] theorem skip_halted (s : State) : (skip s).halted = s.halted := rfl
@[simp] theorem skip_haltReason (s : State) : (skip s).haltReason = s.haltReason := rfl
@[simp] theorem skip_blocked (s : State) : (skip s).blocked = s.blocked := rfl
@[simp] theorem skip_cfg (s : State) : (skip s).cfg = s.cfg := rfl

@[simp] theorem rewind_V (s : State) : (rewind s).V = s.V := rfl
@[simp] theorem rewind_I (s : State) : (rewind s).I = s.I := rfl
@[simp] theorem rewind_pc (s : State) : (rewind s).pc = s.pc - 2 := rfl
@[simp] theorem rewind_stack (s : State) : (rewind s).stack = s.stack := rfl
@[simp] theorem rewind_SP (s : State) : (rewind s).SP = s.SP := rfl
@[simp] theorem rewind_DT (s : State) : (rewind s).DT = s.DT := rfl
@[simp] theorem rewind_ST (s : State) : (rewind s).ST = s.ST := rfl
@[simp] theorem rewind_mem (s : State) : (rewind s).mem = s.mem := rfl
@[simp] theorem rewind_fb (s : State) : (rewind s).fb = s.fb := rfl
@[simp] theorem rewind_key (s : State) : (rewind s).key = s.key := rfl
@[simp] theorem rewind_rngState (s : State) : (rewind s).rngState = s.rngState := rfl
@[simp] theorem rewind_halted (s : State) : (rewind s).halted = s.halted := rfl
@[simp] theorem rewind_haltReason (s : State) : (rewind s).haltReason = s.haltReason := rfl
@[simp] theorem rewind_blocked (s : State) : (rewind s).blocked = s.blocked := rfl
@[simp] theorem rewind_cfg (s : State) : (rewind s).cfg = s.cfg := rfl

@[simp] theorem memWriteBytes_V (s : State) (a : Nat) (vs : List Byte) : (memWriteBytes s a vs).V = s.V := rfl
@[simp] theorem memWriteBytes_I (s : State) (a : Nat) (vs : List Byte) : (memWriteBytes s a vs).I = s.I := rfl
@[simp] theorem memWriteBytes_pc (s : State) (a : Nat) (vs : List Byte) : (memWriteBytes s a vs).pc = s.pc := rfl
@[simp] theorem memWriteBytes_stack (s : State) (a : Nat) (vs : List Byte) : (memWriteBytes s a vs).stack = s.stack := rfl
@[simp] theorem memWriteBytes_SP (s : State) (a : Nat) (vs : List Byte) : (memWriteBytes s a vs).SP = s.SP := rfl
@[simp] theorem memWriteBytes_DT (s : State) (a : Nat) (vs : List Byte) : (memWriteBytes s a vs).DT = s.DT := rfl
@[simp] theorem memWriteBytes_ST (s : State) (a : Nat) (vs : List Byte) : (memWriteBytes s a vs).ST = s.ST := rfl
@[simp] theorem memWriteBytes_mem (s : State) (a : Nat) (vs : List Byte) : (memWriteBytes s a vs).mem = s.mem.writeBytes a vs := rfl
@[simp] theorem memWriteBytes_fb (s : State) (a : Nat) (vs : List Byte) : (memWriteBytes s a vs).fb = s.fb := rfl
@[simp] theorem memWriteBytes_key (s : State) (a : Nat) (vs : List Byte) : (memWriteBytes s a vs).key = s.key := rfl
@[simp] theorem memWriteBytes_rngState (s : State) (a : Nat) (vs : List Byte) : (memWriteBytes s a vs).rngState = s.rngState := rfl
@[simp] theorem memWriteBytes_halted (s : State) (a : Nat) (vs : List Byte) : (memWriteBytes s a vs).halted = s.halted := rfl
@[simp] theorem memWriteBytes_haltReason (s : State) (a : Nat) (vs : List Byte) : (memWriteBytes s a vs).haltReason = s.haltReason := rfl
@[simp] theorem memWriteBytes_blocked (s : State) (a : Nat) (vs : List Byte) : (memWriteBytes s a vs).blocked = s.blocked := rfl
@[simp] theorem memWriteBytes_cfg (s : State) (a : Nat) (vs : List Byte) : (memWriteBytes s a vs).cfg = s.cfg := rfl

@[simp] theorem timerTick_V (s : State) : (timerTick s).V = s.V := rfl
@[simp] theorem timerTick_I (s : State) : (timerTick s).I = s.I := rfl
@[simp] theorem timerTick_pc (s : State) : (timerTick s).pc = s.pc := rfl
@[simp] theorem timerTick_stack (s : State) : (timerTick s).stack = s.stack := rfl
@[simp] theorem timerTick_SP (s : State) : (timerTick s).SP = s.SP := rfl
@[simp] theorem timerTick_DT (s : State) : (timerTick s).DT = countdown s.DT := rfl
@[simp] theorem timerTick_ST (s : State) : (timerTick s).ST = countdown s.ST := rfl
@[simp] theorem timerTick_mem (s : State) : (timerTick s).mem = s.mem := rfl
@[simp] theorem timerTick_fb (s : State) : (timerTick s).fb = s.fb := rfl
@[simp] theorem timerTick_key (s : State) : (timerTick s).key = s.key := rfl
@[simp] theorem timerTick_rngState (s : State) : (timerTick s).rngState = s.rngState := rfl
@[simp] theorem timerTick_halted (s : State) : (timerTick s).halted = s.halted := rfl
@[simp] theorem timerTick_haltReason (s : State) : (timerTick s).haltReason = s.haltReason := rfl
@[simp] theorem timerTick_blocked (s : State) : (timerTick s).blocked = s.blocked := rfl
@[simp] theorem timerTick_cfg (s : State) : (timerTick s).cfg = s.cfg := rfl

@[simp] theorem endCycle_V (w : Bool) (s : State) : (endCycle w s).V = s.V := rfl
@[simp] theorem endCycle_I (w : Bool) (s : State) : (endCycle w s).I = s.I := rfl
@[simp] theorem endCycle_pc (w : Bool) (s : State) : (endCycle w s).pc = s.pc := rfl
@[simp] theorem endCycle_stack (w : Bool) (s : State) : (endCycle w s).stack = s.stack := rfl
@[simp] theorem endCycle_SP (w : Bool) (s : State) : (endCycle w s).SP = s.SP := rfl
@[simp] theorem endCycle_DT (w : Bool) (s : State) : (endCycle w s).DT = countdown s.DT := rfl
@[simp] theorem endCycle_ST (w : Bool) (s : State) : (endCycle w s).ST = countdown s.ST := rfl
@[simp] theorem endCycle_mem (w : Bool) (s : State) : (endCycle w s).mem = s.mem := rfl
@[simp] theorem endCycle_fb (w : Bool) (s : State) : (endCycle w s).fb = s.fb := rfl
@[simp] theorem endCycle_key (w : Bool) (s : State) : (endCycle w s).key = s.key := rfl
@[simp] theorem endCycle_rngState (w : Bool) (s : State) : (endCycle w s).rngState = s.rngState := rfl
@[simp] theorem endCycle_halted (w : Bool) (s : State) : (endCycle w s).halted = s.halted := rfl
@[simp] theorem endCycle_haltReason (w : Bool) (s : State) : (endCycle w s).haltReason = s.haltReason := rfl
@[simp] theorem endCycle_blocked (w : Bool) (s : State) : (endCycle w s).blocked = w := rfl
@[simp] theorem endCycle_cfg (w : Bool) (s : State) : (endCycle w s).cfg = s.cfg := rfl

@[simp] theorem haltEntry_V (r : HaltReason) (s : State) : (haltEntry r s).V = s.V := rfl
@[simp] theorem haltEntry_I (r : HaltReason) (s : State) : (haltEntry r s).I = s.I := rfl
@[simp] theorem haltEntry_pc (r : HaltReason) (s : State) : (haltEntry r s).pc = s.pc := rfl
@[simp] theorem haltEntry_stack (r : HaltReason) (s : State) : (haltEntry r s).stack = s.stack := rfl
@[simp] theorem haltEntry_SP (r : HaltReason) (s : State) : (haltEntry r s).SP = s.SP := rfl
@[simp] theorem haltEntry_DT (r : HaltReason) (s : State) : (haltEntry r s).DT = s.DT := rfl
@[simp] theorem haltEntry_ST (r : HaltReason) (s : State) : (haltEntry r s).ST = s.ST := rfl
@[simp] theorem haltEntry_mem (r : HaltReason) (s : State) : (haltEntry r s).mem = s.mem := rfl
@[simp] theorem haltEntry_fb (r : HaltReason) (s : State) : (haltEntry r s).fb = s.fb := rfl
@[simp] theorem haltEntry_key (r : HaltReason) (s : State) : (haltEntry r s).key = s.key := rfl
@[simp] theorem haltEntry_rngState (r : HaltReason) (s : State) : (haltEntry r s).rngState = s.rngState := rfl
@[simp] theorem haltEntry_halted (r : HaltReason) (s : State) : (haltEntry r s).halted = true := rfl
@[simp] theorem haltEntry_haltReason (r : HaltReason) (s : State) : (haltEntry r s).haltReason = r := rfl
@[simp] theorem haltEntry_blocked (r : HaltReason) (s : State) : (haltEntry r s).blocked = s.blocked := rfl
@[simp] theorem haltEntry_cfg (r : HaltReason) (s : State) : (haltEntry r s).cfg = s.cfg := rfl

@[simp] theorem rngDraw_snd_V (s : State) : ((rngDraw s).2).V = s.V := rfl
@[simp] theorem rngDraw_snd_I (s : State) : ((rngDraw s).2).I = s.I := rfl
@[simp] theorem rngDraw_snd_pc (s : State) : ((rngDraw s).2).pc = s.pc := rfl
@[simp] theorem rngDraw_snd_stack (s : State) : ((rngDraw s).2).stack = s.stack := rfl
@[simp] theorem rngDraw_snd_SP (s : State) : ((rngDraw s).2).SP = s.SP := rfl
@[simp] theorem rngDraw_snd_DT (s : State) : ((rngDraw s).2).DT = s.DT := rfl
@[simp] theorem rngDraw_snd_ST (s : State) : ((rngDraw s).2).ST = s.ST := rfl
@[simp] theorem rngDraw_snd_mem (s : State) : ((rngDraw s).2).mem = s.mem := rfl
@[simp] theorem rngDraw_snd_fb (s : State) : ((rngDraw s).2).fb = s.fb := rfl
@[simp] theorem rngDraw_snd_key (s : State) : ((rngDraw s).2).key = s.key := rfl
@[simp] theorem rngDraw_snd_rngState (s : State) : ((rngDraw s).2).rngState = RngState.mk s.rngState.seed (s.rngState.draws + 1) := rfl
@[simp] theorem rngDraw_snd_halted (s : State) : ((rngDraw s).2).halted = s.halted := rfl
@[simp] theorem rngDraw_snd_haltReason (s : State) : ((rngDraw s).2).haltReason = s.haltReason := rfl
@[simp] theorem rngDraw_snd_blocked (s : State) : ((rngDraw s).2).blocked = s.blocked := rfl
@[simp] theorem rngDraw_snd_cfg (s : State) : ((rngDraw s).2).cfg = s.cfg := rfl

@[simp] theorem skipIf_V (c : Bool) (s : State) : (skipIf c s).V = s.V := by
  cases c <;> rfl
@[simp] theorem skipIf_I (c : Bool) (s : State) : (skipIf c s).I = s.I := by
  cases c <;> rfl
theorem skipIf_pc (c : Bool) (s : State) : (skipIf c s).pc = if c then s.pc + 2 else s.pc := by
  cases c <;> rfl
@[simp] theorem skipIf_stack (c : Bool) (s : State) : (skipIf c s).stack = s.stack := by
  cases c <;> rfl
@[simp] theorem skipIf_SP (c : Bool) (s : State) : (skipIf c s).SP = s.SP := by
  cases c <;> rfl
@[simp] theorem skipIf_DT (c : Bool) (s : State) : (skipIf c s).DT = s.DT := by
  cases c <;> rfl
@[simp] theorem skipIf_ST (c : Bool) (s : State) : (skipIf c s).ST = s.ST := by
  cases c <;> rfl
@[simp] theorem skipIf_mem (c : Bool) (s : State) : (skipIf c s).mem = s.mem := by
  cases c <;> rfl
@[simp] theorem skipIf_fb (c : Bool) (s : State) : (skipIf c s).fb = s.fb := by
  cases c <;> rfl
@[simp] theorem skipIf_key (c : Bool) (s : State) : (skipIf c s).key = s.key := by
  cases c <;> rfl
@[simp] theorem skipIf_rngState (c : Bool) (s : State) : (skipIf c s).rngState = s.rngState := by
  cases c <;> rfl
@[simp] theorem skipIf_halted (c : Bool) (s : State) : (skipIf c s).halted = s.halted := by
  cases c <;> rfl
@[simp] theorem skipIf_haltReason (c : Bool) (s : State) : (skipIf c s).haltReason = s.haltReason := by
  cases c <;> rfl
@[simp] theorem skipIf_blocked (c : Bool) (s : State) : (skipIf c s).blocked = s.blocked := by
  cases c <;> rfl
@[simp] theorem skipIf_cfg (c : Bool) (s : State) : (skipIf c s).cfg = s.cfg := by
  cases c <;> rfl

/-! ### The register file -/

theorem reg_eq_get (s : State) (r : Reg) : s.reg r = s.V[r] := rfl

@[simp] theorem reg_setReg_same (s : State) (r : Reg) (v : Byte) : (s.setReg r v).reg r = v := by
  simp [State.reg, State.setReg]

theorem reg_setReg_ne (s : State) (r q : Reg) (v : Byte) (h : q ≠ r) : (s.setReg r v).reg q = s.reg q := by
  have h' : r.val ≠ q.val := fun e => h (Fin.ext e.symm)
  simp [State.reg, State.setReg, Vector.getElem_set_ne, h']

theorem reg_setReg (s : State) (r q : Reg) (v : Byte) :
    (s.setReg r v).reg q = if q = r then v else s.reg q := by
  by_cases h : q = r
  · subst h; simp
  · simp [h, reg_setReg_ne]

@[simp] theorem reg_setI (s : State) (v : Word) (r : Reg) : (s.setI v).reg r = s.reg r := rfl
@[simp] theorem reg_setPc (s : State) (v : Word) (r : Reg) : (s.setPc v).reg r = s.reg r := rfl
@[simp] theorem reg_advance (s : State) (r : Reg) : (advance s).reg r = s.reg r := rfl
@[simp] theorem reg_skip (s : State) (r : Reg) : (skip s).reg r = s.reg r := rfl
@[simp] theorem reg_rewind (s : State) (r : Reg) : (rewind s).reg r = s.reg r := rfl
@[simp] theorem reg_skipIf (c : Bool) (s : State) (r : Reg) : (skipIf c s).reg r = s.reg r := by cases c <;> rfl
@[simp] theorem reg_memWriteBytes (s : State) (a : Nat) (vs : List Byte) (r : Reg) :
    (memWriteBytes s a vs).reg r = s.reg r := rfl
@[simp] theorem reg_endCycle (w : Bool) (s : State) (r : Reg) : (endCycle w s).reg r = s.reg r := rfl
@[simp] theorem reg_haltEntry (k : HaltReason) (s : State) (r : Reg) : (haltEntry k s).reg r = s.reg r := rfl
@[simp] theorem reg_rngDraw_snd (s : State) (r : Reg) : (rngDraw s).2.reg r = s.reg r := rfl

/-! ### The way out of a halt -/

@[simp] theorem resetPort_halted (s : State) : (resetPort s).halted = false := rfl
@[simp] theorem resetPort_haltReason (s : State) : (resetPort s).haltReason = .none := rfl
@[simp] theorem resetPort_blocked (s : State) : (resetPort s).blocked = false := rfl
@[simp] theorem resetPort_mem (s : State) : (resetPort s).mem = [] := rfl
@[simp] theorem resetPort_cfg (s : State) : (resetPort s).cfg = s.cfg := rfl
@[simp] theorem resetPort_rngState (s : State) : (resetPort s).rngState = s.rngState := rfl

end Sys2Proof.Machine
end

