-- ==== Sys2Proof/Laws/Memory.lean ====
section
/-! SUPPORT. The laws of memory: read after write, and that every memory operation keeps the canonical form. -/

namespace Sys2Proof.Machine

theorem maskAddr_lt (a : Nat) : maskAddr a < memSize := Nat.mod_lt _ (by decide)

@[simp] theorem maskAddr_maskAddr (a : Nat) : maskAddr (maskAddr a) = maskAddr a := Nat.mod_mod _ _

/-- Masking is the bitwise AND of R71. -/
theorem maskAddr_eq_and (a : Nat) : maskAddr a = a &&& 0xFFF := (Nat.and_two_pow_sub_one_eq_mod a 12).symm

/-! ### Reading the list -/

theorem get_erase_same (m : Memory) (a : Nat) : (m.erase a).get a = resetByte a := by
  induction m with
  | nil => rfl
  | cons c m ih =>
    obtain ⟨b, w⟩ := c
    by_cases h : b = a
    · subst h; simpa [Memory.erase] using ih
    · simpa [Memory.erase, Memory.get, h] using ih

theorem get_erase_ne (m : Memory) {a b : Nat} (h : b ≠ a) : (m.erase a).get b = m.get b := by
  induction m with
  | nil => rfl
  | cons c m ih =>
    obtain ⟨d, w⟩ := c
    by_cases hd : d = a
    · subst hd; simpa [Memory.erase, Memory.get, h.symm] using ih
    · by_cases hb : d = b
      · subst hb; simp [Memory.erase, Memory.get, hd]
      · simpa [Memory.erase, Memory.get, hd, hb] using ih

theorem get_insert_ne (m : Memory) {a b : Nat} (v : Byte) (h : b ≠ a) : (m.insert a v).get b = m.get b := by
  induction m with
  | nil => simp [Memory.insert, Memory.get, h.symm]
  | cons c m ih =>
    obtain ⟨d, w⟩ := c
    by_cases hd : a < d
    · simp [Memory.insert, Memory.get, hd, h.symm]
    · simp [Memory.insert, Memory.get, hd, ih]

theorem get_insert_same (m : Memory) (a : Nat) (v : Byte) (h : ∀ c ∈ m, c.1 ≠ a) : (m.insert a v).get a = v := by
  induction m with
  | nil => simp [Memory.insert, Memory.get]
  | cons c m ih =>
    obtain ⟨d, w⟩ := c
    have hd : d ≠ a := h (d, w) (by simp)
    by_cases hlt : a < d
    · simp [Memory.insert, Memory.get, hlt]
    · simpa [Memory.insert, Memory.get, hlt, hd] using ih (fun c hc => h c (by simp [hc]))

theorem mem_erase {m : Memory} {a : Nat} {c : Host.Cell} : c ∈ m.erase a ↔ c ∈ m ∧ c.1 ≠ a := by
  simp [Memory.erase]

/-- A write, then a read of any address: one lemma for the array. -/
theorem get_put (m : Memory) (a b : Nat) (v : Byte) : (m.put a v).get b = if b = a then v else m.get b := by
  by_cases hb : b = a
  · subst hb
    by_cases hv : v = resetByte b
    · simp [Memory.put, hv, get_erase_same]
    · simp [Memory.put, hv, get_insert_same _ _ _ (fun c hc => (mem_erase.1 hc).2)]
  · by_cases hv : v = resetByte a
    · simp [Memory.put, hv, hb, get_erase_ne]
    · simp [Memory.put, hv, hb, get_insert_ne, get_erase_ne]

/-- MemRead after MemWrite, each address masked (R71, R72, R80). -/
theorem read_write (m : Memory) (a b : Nat) (v : Byte) :
    (m.write a v).read b = if maskAddr b = maskAddr a then v else m.read b := by
  simp [Memory.read, Memory.write, get_put]

/-- A byte outside a written block reads as before. -/
theorem read_writeBytes_outside (m : Memory) (a b : Nat) (vs : List Byte)
    (h : ∀ k, k < vs.length → maskAddr b ≠ maskAddr (a + k)) : (m.writeBytes a vs).read b = m.read b := by
  induction vs generalizing m a with
  | nil => rfl
  | cons v vs ih =>
    have h0 : maskAddr b ≠ maskAddr a := h 0 (by simp)
    have hs : ∀ k, k < vs.length → maskAddr b ≠ maskAddr (a + 1 + k) := fun k hk => by
      have := h (k + 1) (by simp; omega)
      rwa [show a + (k + 1) = a + 1 + k by omega] at this
    rw [Memory.writeBytes, ih _ _ hs, read_write, if_neg h0]

/-- A byte of a written block no longer than memory reads as written. -/
theorem read_writeBytes_inside (m : Memory) (a : Nat) (vs : List Byte) (k : Nat) (hk : k < vs.length)
    (hlen : vs.length ≤ memSize) : (m.writeBytes a vs).read (a + k) = vs[k] := by
  induction vs generalizing m a k with
  | nil => simp at hk
  | cons v vs ih =>
    simp only [List.length_cons] at hk hlen
    cases k with
    | zero =>
      rw [Memory.writeBytes, read_writeBytes_outside, read_write, Nat.add_zero, if_pos rfl]
      · rfl
      · intro j hj
        simp only [maskAddr, memSize, Nat.add_zero] at *
        omega
    | succ k =>
      rw [Memory.writeBytes, show a + (k + 1) = a + 1 + k by omega, ih _ _ k (by omega) (by omega)]
      rfl

theorem readBytes_length (m : Memory) (a n : Nat) : (m.readBytes a n).length = n := by
  induction n generalizing a with
  | zero => rfl
  | succ n ih => simp [Memory.readBytes, ih]

/-! ### The canonical form -/

theorem nil_wf : Memory.wf [] := ⟨List.Pairwise.nil, fun _ hc => absurd hc List.not_mem_nil⟩

theorem erase_wf {m : Memory} (a : Nat) (h : m.wf) : (m.erase a).wf :=
  ⟨h.1.filter _, fun c hc => h.2 c (mem_erase.1 hc).1⟩

theorem mem_insert {m : Memory} {a : Nat} {v : Byte} {c : Host.Cell} (h : c ∈ m.insert a v) : c = (a, v) ∨ c ∈ m := by
  induction m with
  | nil => simpa [Memory.insert] using h
  | cons d m ih =>
    obtain ⟨b, w⟩ := d
    by_cases hlt : a < b
    · simpa [Memory.insert, hlt] using h
    · simp only [Memory.insert, hlt, if_false, List.mem_cons] at h ⊢
      rcases h with h | h
      · exact .inr (.inl h)
      · rcases ih h with h | h
        · exact .inl h
        · exact .inr (.inr h)

theorem insert_sorted {m : Memory} {a : Nat} {v : Byte} (h : m.Pairwise (fun c d => c.1 < d.1))
    (hne : ∀ c ∈ m, c.1 ≠ a) : (m.insert a v).Pairwise (fun c d => c.1 < d.1) := by
  induction m with
  | nil => simp [Memory.insert]
  | cons d m ih =>
    obtain ⟨b, w⟩ := d
    have hb : b ≠ a := hne (b, w) (by simp)
    rw [List.pairwise_cons] at h
    by_cases hlt : a < b
    · simp only [Memory.insert, hlt, if_true, List.pairwise_cons]
      refine ⟨fun c hc => ?_, h.1, h.2⟩
      rcases List.mem_cons.1 hc with rfl | hc
      · exact hlt
      · exact Nat.lt_trans hlt (h.1 c hc)
    · simp only [Memory.insert, hlt, if_false, List.pairwise_cons]
      refine ⟨fun c hc => ?_, ih h.2 (fun c hc => hne c (by simp [hc]))⟩
      rcases mem_insert hc with rfl | hc
      · show b < a
        omega
      · exact h.1 c hc

theorem put_wf {m : Memory} {a : Nat} (v : Byte) (ha : a < memSize) (h : m.wf) : (m.put a v).wf := by
  have he := erase_wf a h
  by_cases hv : v = resetByte a
  · simpa [Memory.put, hv] using he
  · simp only [Memory.put, hv, if_false]
    refine ⟨insert_sorted he.1 (fun c hc => (mem_erase.1 hc).2), fun c hc => ?_⟩
    rcases mem_insert hc with rfl | hc
    · exact ⟨ha, hv⟩
    · exact he.2 c hc

theorem write_wf {m : Memory} (a : Nat) (v : Byte) (h : m.wf) : (m.write a v).wf := put_wf v (maskAddr_lt a) h

/-- Every memory operation of the machine is a block write: it keeps the canonical form. -/
theorem writeBytes_wf {m : Memory} (a : Nat) (vs : List Byte) (h : m.wf) : (m.writeBytes a vs).wf := by
  induction vs generalizing m a with
  | nil => exact h
  | cons v vs ih => exact ih _ (write_wf a v h)

/-! ### State-level forms -/

@[simp] theorem memRead_setReg (s : State) (r : Reg) (v : Byte) (a : Nat) :
    memRead (s.setReg r v) a = memRead s a := rfl
@[simp] theorem memRead_setI (s : State) (v : Word) (a : Nat) : memRead (s.setI v) a = memRead s a := rfl
@[simp] theorem memRead_setPc (s : State) (v : Word) (a : Nat) : memRead (s.setPc v) a = memRead s a := rfl
@[simp] theorem memRead_advance (s : State) (a : Nat) : memRead (advance s) a = memRead s a := rfl
@[simp] theorem memRead_skipIf (c : Bool) (s : State) (a : Nat) : memRead (skipIf c s) a = memRead s a := by
  cases c <;> rfl
@[simp] theorem memRead_endCycle (w : Bool) (s : State) (a : Nat) : memRead (endCycle w s) a = memRead s a := rfl

/-- The memory frame of a block write (R72, R75). -/
theorem memRead_memWriteBytes_outside (s : State) (a b : Nat) (vs : List Byte)
    (h : ∀ k, k < vs.length → maskAddr b ≠ maskAddr (a + k)) : memRead (memWriteBytes s a vs) b = memRead s b :=
  read_writeBytes_outside s.mem a b vs h

/-- The bytes of a block write (R72, R75). -/
theorem memRead_memWriteBytes_inside (s : State) (a : Nat) (vs : List Byte) (k : Nat) (hk : k < vs.length)
    (hlen : vs.length ≤ memSize) : memRead (memWriteBytes s a vs) (a + k) = vs[k] :=
  read_writeBytes_inside s.mem a vs k hk hlen

end Sys2Proof.Machine
end

