-- ==== Sys2Proof/Laws/Cycle.lean ====
section
/-! SUPPORT. What the shared operations of a cycle can do, said once: the cycle around a handler, the call stack, the
operands, the flags, the timers. -/

namespace Sys2Proof.Machine

/-- Everything a cycle around a handler can answer: completion, a wait, or halt entry; always a next state. -/
theorem runCycle_cases {h : State → Handled} {s t : State} (hr : runCycle h s = .next t) :
    (∃ u, h (advance s) = .done u ∧ t = endCycle false u) ∨
    (∃ u, h (advance s) = .waiting u ∧ t = endCycle true u) ∨
    (∃ r, h (advance s) = .halt r ∧ t = haltEntry r s) := by
  unfold runCycle at hr
  split at hr
  · next u hu => exact .inl ⟨u, hu, by injection hr with e; exact e.symm⟩
  · next u hu => exact .inr (.inl ⟨u, hu, by injection hr with e; exact e.symm⟩)
  · next r hu => exact .inr (.inr ⟨r, hu, by injection hr with e; exact e.symm⟩)

theorem runCycle_done {h : State → Handled} {s u : State} (hu : h (advance s) = .done u) :
    runCycle h s = .next (endCycle false u) := by simp [runCycle, hu]

theorem runCycle_waiting {h : State → Handled} {s u : State} (hu : h (advance s) = .waiting u) :
    runCycle h s = .next (endCycle true u) := by simp [runCycle, hu]

theorem runCycle_halt {h : State → Handled} {s : State} {r : HaltReason} (hu : h (advance s) = .halt r) :
    runCycle h s = .next (haltEntry r s) := by simp [runCycle, hu]

/-- A cycle always answers a next state. -/
theorem runCycle_next (h : State → Handled) (s : State) : ∃ t, runCycle h s = .next t := by
  unfold runCycle
  split <;> exact ⟨_, rfl⟩

/-- One timer's countdown as numbers (R247). -/
theorem countdown_toNat (b : Byte) : (countdown b).toNat = b.toNat - 1 := by
  unfold countdown
  split
  · next h => simp [h]
  · next h =>
    have : b.toNat ≠ 0 := fun e => h (BitVec.eq_of_toNat_eq (by simpa using e))
    have := b.isLt
    rw [BitVec.toNat_sub]
    simp
    omega

/-- What a push can do (R151). -/
theorem push_cases (v : Word) (s : State) :
    (∃ h : s.SP.val < 16,
      push v s = .ok { s with stack := s.stack.set s.SP.val v h, SP := ⟨s.SP.val + 1, by omega⟩ }) ∨
    (s.SP.val = 16 ∧ push v s = .error .stackOverflow) := by
  by_cases h : s.SP.val < 16
  · exact .inl ⟨h, by simp [push, h]⟩
  · exact .inr ⟨by have := s.SP.isLt; omega, by simp [push, h]⟩

/-- What a pop can do (R152). -/
theorem pop_cases (s : State) :
    (∃ h : 0 < s.SP.val,
      pop s = .ok (s.stack[s.SP.val - 1]'(by have := s.SP.isLt; omega), { s with SP := ⟨s.SP.val - 1, by omega⟩ })) ∨
    (s.SP.val = 0 ∧ pop s = .error .stackUnderflow) := by
  by_cases h : 0 < s.SP.val
  · exact .inl ⟨h, by simp [pop, h]⟩
  · exact .inr ⟨by omega, by simp [pop, h]⟩

theorem smallIndex_of_lt {v : Byte} (h : v.toNat < 16) : smallIndex v = some ⟨v.toNat, h⟩ := by simp [smallIndex, h]

theorem smallIndex_of_gt {v : Byte} (h : 15 < v.toNat) : smallIndex v = none := by
  simp [smallIndex, show ¬ v.toNat < 16 by omega]

@[simp] theorem flagByte_true : flagByte true = 1 := rfl
@[simp] theorem flagByte_false : flagByte false = 0 := rfl

/-- The register file after the flag and the result are written, in that order (R170). -/
theorem reg_writeFlagThenResult (x r : Reg) (f v : Byte) (s : State) :
    (writeFlagThenResult x f v s).reg r = if r = x then v else if r = VF then f else s.reg r := by
  simp [writeFlagThenResult, reg_setReg]

/-- A register load reads the masked addresses up to the last register and keeps the registers above it (R205). -/
theorem reg_loadRegs (x r : Reg) (s : State) :
    (loadRegs x s).reg r = if r ≤ x then memRead s (s.I.toNat + r.val) else s.reg r := by
  simp [State.reg, loadRegs, indexBase]

/-- The lowest pressed key: it is pressed and no lower one is (R243). -/
theorem lowestKey_some {s : State} {k : Nibble} (h : lowestKey s = some k) :
    s.key[k] = true ∧ ∀ j, j < k → s.key[j] = false := by
  unfold lowestKey at h
  rw [List.find?_eq_some_iff_append] at h
  obtain ⟨hk, as, bs, hab, hn⟩ := h
  refine ⟨by simpa using hk, fun j hj => ?_⟩
  have hs : (as ++ k :: bs).Pairwise (· < ·) := hab ▸ List.pairwise_lt_finRange 16
  have hm : j ∈ as ++ k :: bs := hab ▸ List.mem_finRange j
  rw [List.pairwise_append, List.pairwise_cons] at hs
  rcases List.mem_append.1 hm with hm | hm
  · simpa using hn j hm
  · rcases List.mem_cons.1 hm with rfl | hm
    · exact absurd hj (lt_irrefl _)
    · exact absurd (hs.2.1.1 j hm) (not_lt.2 hj.le)

theorem lowestKey_none {s : State} : lowestKey s = none ↔ ∀ k : Nibble, s.key[k] = false := by
  simp [lowestKey]

end Sys2Proof.Machine
end

