-- ==== Sys2Proof/Laws/Decode.lean ====
section
/-! SUPPORT. The fields of words and the words of fields. -/

namespace Sys2Proof

@[simp] theorem nibbleOf_nibbleBits (n : Nibble) : nibbleOf (nibbleBits n) = n := by
  apply Fin.ext
  simp [nibbleOf, nibbleBits]

@[simp] theorem nibbleBits_nibbleOf (b : BitVec 4) : nibbleBits (nibbleOf b) = b := by
  simp [nibbleOf, nibbleBits]

/-- A field of a word as a number: shift right, then the low bits. -/
theorem extract_toNat (w : Word) (lo len : Nat) : (w.extractLsb' lo len).toNat = w.toNat / 2 ^ lo % 2 ^ len := by
  simp [BitVec.extractLsb'_toNat, Nat.shiftRight_eq_div_pow]

theorem opField_val (w : Word) : (opField w).val = w.toNat / 4096 % 16 := extract_toNat w 12 4
theorem xField_val (w : Word) : (xField w).val = w.toNat / 256 % 16 := extract_toNat w 8 4
theorem yField_val (w : Word) : (yField w).val = w.toNat / 16 % 16 := extract_toNat w 4 4

theorem nField_val (w : Word) : (nField w).val = w.toNat % 16 := by
  have h : w.toNat / 1 % 16 = w.toNat % 16 := by rw [Nat.div_one]
  exact (extract_toNat w 0 4).trans h

theorem kkField_toNat (w : Word) : (kkField w).toNat = w.toNat % 256 := by
  have h : w.toNat / 1 % 256 = w.toNat % 256 := by rw [Nat.div_one]
  exact (extract_toNat w 0 8).trans h

theorem nnnField_toNat (w : Word) : (nnnField w).toNat = w.toNat % 4096 := by
  have h : w.toNat / 1 % 4096 = w.toNat % 4096 := by rw [Nat.div_one]
  exact (extract_toNat w 0 12).trans h

theorem wordA_toNat (op : BitVec 4) (nnn : Addr12) : (wordA op nnn).toNat = op.toNat * 4096 + nnn.toNat := by
  have := nnn.isLt
  unfold wordA
  rw [BitVec.toNat_append, ← Nat.shiftLeft_add_eq_or_of_lt this, Nat.shiftLeft_eq]

theorem nibbleBits_toNat (n : Nibble) : (nibbleBits n).toNat = n.val := by
  simp [nibbleBits]

theorem wordXK_toNat (op : BitVec 4) (x : Nibble) (kk : Byte) :
    (wordXK op x kk).toNat = op.toNat * 4096 + x.val * 256 + kk.toNat := by
  have hk := kk.isLt
  have hx := x.isLt
  have h1 : (nibbleBits x ++ kk).toNat = x.val * 256 + kk.toNat := by
    rw [BitVec.toNat_append, ← Nat.shiftLeft_add_eq_or_of_lt hk, Nat.shiftLeft_eq, nibbleBits_toNat]
  have h2 : (nibbleBits x ++ kk).toNat < 2 ^ 12 := by omega
  unfold wordXK
  rw [BitVec.toNat_append, ← Nat.shiftLeft_add_eq_or_of_lt h2, Nat.shiftLeft_eq, h1]
  omega

theorem wordXYN_toNat (op : BitVec 4) (x y n : Nibble) :
    (wordXYN op x y n).toNat = op.toNat * 4096 + x.val * 256 + y.val * 16 + n.val := by
  have hx := x.isLt
  have hy := y.isLt
  have hn : (nibbleBits n).toNat < 2 ^ 4 := (nibbleBits n).isLt
  have h0 : (nibbleBits y ++ nibbleBits n).toNat = y.val * 16 + n.val := by
    rw [BitVec.toNat_append, ← Nat.shiftLeft_add_eq_or_of_lt hn, Nat.shiftLeft_eq, nibbleBits_toNat, nibbleBits_toNat]
  have h0' : (nibbleBits y ++ nibbleBits n).toNat < 2 ^ 8 := by
    have := n.isLt
    omega
  have h1 : (nibbleBits x ++ (nibbleBits y ++ nibbleBits n)).toNat = x.val * 256 + y.val * 16 + n.val := by
    rw [BitVec.toNat_append, ← Nat.shiftLeft_add_eq_or_of_lt h0', Nat.shiftLeft_eq, h0, nibbleBits_toNat]
    omega
  have h2 : (nibbleBits x ++ (nibbleBits y ++ nibbleBits n)).toNat < 2 ^ 12 := by
    have := n.isLt
    omega
  unfold wordXYN
  rw [BitVec.toNat_append, ← Nat.shiftLeft_add_eq_or_of_lt h2, Nat.shiftLeft_eq, h1]
  omega

/-! ### The fields of an assembled word -/

@[simp] theorem opField_wordA (op : BitVec 4) (nnn : Addr12) : opField (wordA op nnn) = nibbleOf op := by
  apply Fin.ext
  have h1 := op.isLt
  have h2 := nnn.isLt
  rw [opField_val, wordA_toNat]
  show _ = op.toNat
  omega

@[simp] theorem nnnField_wordA (op : BitVec 4) (nnn : Addr12) : nnnField (wordA op nnn) = nnn := by
  apply BitVec.eq_of_toNat_eq
  have h2 := nnn.isLt
  rw [nnnField_toNat, wordA_toNat]
  omega

@[simp] theorem nField_wordA (op : BitVec 4) (nnn : Addr12) : nField (wordA op nnn) = lowNibble nnn := by
  apply Fin.ext
  have h2 := nnn.isLt
  rw [nField_val, wordA_toNat]
  show _ = nnn.toNat % 16
  omega

@[simp] theorem opField_wordXK (op : BitVec 4) (x : Nibble) (kk : Byte) : opField (wordXK op x kk) = nibbleOf op := by
  apply Fin.ext
  have h1 := op.isLt
  have h2 := x.isLt
  have h3 := kk.isLt
  rw [opField_val, wordXK_toNat]
  show _ = op.toNat
  omega

@[simp] theorem xField_wordXK (op : BitVec 4) (x : Nibble) (kk : Byte) : xField (wordXK op x kk) = x := by
  apply Fin.ext
  have h2 := x.isLt
  have h3 := kk.isLt
  rw [xField_val, wordXK_toNat]
  omega

@[simp] theorem kkField_wordXK (op : BitVec 4) (x : Nibble) (kk : Byte) : kkField (wordXK op x kk) = kk := by
  apply BitVec.eq_of_toNat_eq
  have h3 := kk.isLt
  rw [kkField_toNat, wordXK_toNat]
  omega

@[simp] theorem opField_wordXYN (op : BitVec 4) (x y n : Nibble) : opField (wordXYN op x y n) = nibbleOf op := by
  apply Fin.ext
  have h1 := op.isLt
  have h2 := x.isLt
  have h3 := y.isLt
  have h4 := n.isLt
  rw [opField_val, wordXYN_toNat]
  show _ = op.toNat
  omega

@[simp] theorem xField_wordXYN (op : BitVec 4) (x y n : Nibble) : xField (wordXYN op x y n) = x := by
  apply Fin.ext
  have h2 := x.isLt
  have h3 := y.isLt
  have h4 := n.isLt
  rw [xField_val, wordXYN_toNat]
  omega

@[simp] theorem yField_wordXYN (op : BitVec 4) (x y n : Nibble) : yField (wordXYN op x y n) = y := by
  apply Fin.ext
  have h3 := y.isLt
  have h4 := n.isLt
  rw [yField_val, wordXYN_toNat]
  omega

@[simp] theorem nField_wordXYN (op : BitVec 4) (x y n : Nibble) : nField (wordXYN op x y n) = n := by
  apply Fin.ext
  have h4 := n.isLt
  rw [nField_val, wordXYN_toNat]
  omega

end Sys2Proof
end

