-- ==== Sys2Proof/Laws/Exec.lean ====
section
/-! SUPPORT. What exec answers, once per instruction: the state before the closing tick, in terms of the shared
operations; two lemmas for an instruction that can halt or wait. Later proofs cite these and do not unfold exec. -/

namespace Sys2Proof.Machine

theorem exec_cls (s : State) : exec .cls s = .next (endCycle false { advance s with fb := blankScreen }) := rfl

theorem exec_ret (s : State) (h : 0 < s.SP.val) :
    exec .ret s = .next (endCycle false (State.setPc { advance s with SP := ⟨s.SP.val - 1, by omega⟩ }
      (s.stack[s.SP.val - 1]'(by have := s.SP.isLt; omega)))) := by
  simp [exec, execRet, runCycle, pop, h]

theorem exec_ret_underflow (s : State) (h : s.SP.val = 0) : exec .ret s = .next (haltEntry .stackUnderflow s) := by
  simp [exec, execRet, runCycle, pop, h]

theorem exec_sys (nnn : Addr12) (s : State) : exec (.sys nnn) s = .next (endCycle false (advance s)) := rfl

theorem exec_jp (nnn : Addr12) (s : State) :
    exec (.jp nnn) s = .next (endCycle false ((advance s).setPc (zextAddr nnn))) := rfl

theorem exec_call (nnn : Addr12) (s : State) (h : s.SP.val < 16) :
    exec (.call nnn) s = .next (endCycle false (State.setPc
      { advance s with stack := s.stack.set s.SP.val (s.pc + 2) h, SP := ⟨s.SP.val + 1, by omega⟩ }
      (zextAddr nnn))) := by
  simp [exec, execCall, runCycle, push, h]

theorem exec_call_overflow (nnn : Addr12) (s : State) (h : s.SP.val = 16) :
    exec (.call nnn) s = .next (haltEntry .stackOverflow s) := by
  simp [exec, execCall, runCycle, push, h]

theorem exec_seVxByte (x : Reg) (kk : Byte) (s : State) :
    exec (.seVxByte x kk) s = .next (endCycle false (skipIf (s.reg x == kk) (advance s))) := rfl

theorem exec_sneVxByte (x : Reg) (kk : Byte) (s : State) :
    exec (.sneVxByte x kk) s = .next (endCycle false (skipIf (s.reg x != kk) (advance s))) := rfl

theorem exec_seVxVy (x y : Reg) (s : State) :
    exec (.seVxVy x y) s = .next (endCycle false (skipIf (s.reg x == s.reg y) (advance s))) := rfl

theorem exec_sneVxVy (x y : Reg) (s : State) :
    exec (.sneVxVy x y) s = .next (endCycle false (skipIf (s.reg x != s.reg y) (advance s))) := rfl

theorem exec_ldVxByte (x : Reg) (kk : Byte) (s : State) :
    exec (.ldVxByte x kk) s = .next (endCycle false ((advance s).setReg x kk)) := rfl

theorem exec_addVxByte (x : Reg) (kk : Byte) (s : State) :
    exec (.addVxByte x kk) s = .next (endCycle false ((advance s).setReg x (s.reg x + kk))) := rfl

theorem exec_ldVxVy (x y : Reg) (s : State) :
    exec (.ldVxVy x y) s = .next (endCycle false ((advance s).setReg x (s.reg y))) := rfl

theorem exec_orVxVy (x y : Reg) (s : State) :
    exec (.orVxVy x y) s = .next (endCycle false ((advance s).setReg x (s.reg x ||| s.reg y))) := rfl

theorem exec_andVxVy (x y : Reg) (s : State) :
    exec (.andVxVy x y) s = .next (endCycle false ((advance s).setReg x (s.reg x &&& s.reg y))) := rfl

theorem exec_xorVxVy (x y : Reg) (s : State) :
    exec (.xorVxVy x y) s = .next (endCycle false ((advance s).setReg x (s.reg x ^^^ s.reg y))) := rfl

theorem exec_addVxVy (x y : Reg) (s : State) :
    exec (.addVxVy x y) s = .next (endCycle false
      (writeFlagThenResult x (carryFlag (s.reg x) (s.reg y)) (s.reg x + s.reg y) (advance s))) := rfl

theorem exec_subVxVy (x y : Reg) (s : State) :
    exec (.subVxVy x y) s = .next (endCycle false
      (writeFlagThenResult x (greaterFlag (s.reg x) (s.reg y)) (s.reg x - s.reg y) (advance s))) := rfl

theorem exec_subnVxVy (x y : Reg) (s : State) :
    exec (.subnVxVy x y) s = .next (endCycle false
      (writeFlagThenResult x (greaterFlag (s.reg y) (s.reg x)) (s.reg y - s.reg x) (advance s))) := rfl

theorem exec_shrVxVy (x y : Reg) (s : State) :
    exec (.shrVxVy x y) s = .next (endCycle false
      (writeFlagThenResult x (shiftedOutRight (shiftSource x y s)) (shiftSource x y s >>> 1) (advance s))) := rfl

theorem exec_shlVxVy (x y : Reg) (s : State) :
    exec (.shlVxVy x y) s = .next (endCycle false
      (writeFlagThenResult x (shiftedOutLeft (shiftSource x y s)) (shiftSource x y s <<< 1) (advance s))) := rfl

theorem exec_ldIAddr (nnn : Addr12) (s : State) :
    exec (.ldIAddr nnn) s = .next (endCycle false ((advance s).setI (zextAddr nnn))) := rfl

theorem exec_jpV0Addr (nnn : Addr12) (s : State) :
    exec (.jpV0Addr nnn) s = .next (endCycle false ((advance s).setPc (zextAddr nnn + zextByte (s.reg 0)))) := rfl

theorem exec_rnd (x : Reg) (kk : Byte) (s : State) :
    exec (.rnd x kk) s = .next (endCycle false
      ((rngDraw (advance s)).2.setReg x (Config.rngByte s.rngState.seed s.rngState.draws &&& kk))) := rfl

theorem exec_drw (x y : Reg) (n : Nibble) (s : State) :
    exec (.drw x y n) s = .next (endCycle false
      (State.setReg { advance s with fb := (drawSprite x y n s).1 } VF (flagByte (drawSprite x y n s).2))) := rfl

theorem exec_skp (x : Reg) (s : State) (k : Nibble) (h : (s.reg x).toNat = k.val) :
    exec (.skp x) s = .next (endCycle false (skipIf (s.key[k]) (advance s))) := by
  have hk : smallIndex (s.reg x) = some k := by
    rw [smallIndex_of_lt (by have := k.isLt; omega)]
    exact congrArg some (Fin.ext h)
  simp [exec, execSkp, runCycle, hk]

theorem exec_skp_halt (x : Reg) (s : State) (h : 15 < (s.reg x).toNat) :
    exec (.skp x) s = .next (haltEntry .keyIndexOutOfRange s) := by
  simp [exec, execSkp, runCycle, smallIndex_of_gt h]

theorem exec_sknp (x : Reg) (s : State) (k : Nibble) (h : (s.reg x).toNat = k.val) :
    exec (.sknp x) s = .next (endCycle false (skipIf (!(s.key[k])) (advance s))) := by
  have hk : smallIndex (s.reg x) = some k := by
    rw [smallIndex_of_lt (by have := k.isLt; omega)]
    exact congrArg some (Fin.ext h)
  simp [exec, execSknp, runCycle, hk]

theorem exec_sknp_halt (x : Reg) (s : State) (h : 15 < (s.reg x).toNat) :
    exec (.sknp x) s = .next (haltEntry .keyIndexOutOfRange s) := by
  simp [exec, execSknp, runCycle, smallIndex_of_gt h]

theorem exec_ldVxDt (x : Reg) (s : State) :
    exec (.ldVxDt x) s = .next (endCycle false ((advance s).setReg x s.DT)) := rfl

theorem lowestKey_advance (s : State) : lowestKey (advance s) = lowestKey s := rfl

theorem exec_ldVxK (x : Reg) (s : State) (k : Nibble) (h : lowestKey s = some k) :
    exec (.ldVxK x) s = .next (endCycle false ((advance s).setReg x (BitVec.ofNat 8 k.val))) := by
  simp [exec, execLdVxK, runCycle, lowestKey_advance, h]

theorem exec_ldVxK_waits (x : Reg) (s : State) (h : lowestKey s = none) :
    exec (.ldVxK x) s = .next (endCycle true (rewind (advance s))) := by
  simp [exec, execLdVxK, runCycle, lowestKey_advance, h]

theorem exec_ldDtVx (x : Reg) (s : State) :
    exec (.ldDtVx x) s = .next (endCycle false { advance s with DT := s.reg x }) := rfl

theorem exec_ldStVx (x : Reg) (s : State) :
    exec (.ldStVx x) s = .next (endCycle false { advance s with ST := s.reg x }) := rfl

theorem exec_addIVx (x : Reg) (s : State) :
    exec (.addIVx x) s = .next (endCycle false ((advance s).setI (s.I + zextByte (s.reg x)))) := rfl

theorem exec_ldFVx (x : Reg) (s : State) (d : Nibble) (h : (s.reg x).toNat = d.val) :
    exec (.ldFVx x) s = .next (endCycle false ((advance s).setI (glyphAddr d))) := by
  have hk : smallIndex (s.reg x) = some d := by
    rw [smallIndex_of_lt (by have := d.isLt; omega)]
    exact congrArg some (Fin.ext h)
  simp [exec, execLdFVx, runCycle, hk]

theorem exec_ldFVx_halt (x : Reg) (s : State) (h : 15 < (s.reg x).toNat) :
    exec (.ldFVx x) s = .next (haltEntry .fontDigitOutOfRange s) := by
  simp [exec, execLdFVx, runCycle, smallIndex_of_gt h]

theorem exec_ldBVx (x : Reg) (s : State) :
    exec (.ldBVx x) s = .next (endCycle false (memWriteBytes (advance s) s.I.toNat (bcdDigits (s.reg x)))) := rfl

theorem exec_ldMiVx (x : Reg) (s : State) :
    exec (.ldMiVx x) s = .next (endCycle false
      ((memWriteBytes (advance s) s.I.toNat (regsUpTo x s)).setI (indexAfterBlock x s))) := rfl

theorem exec_ldVxMi (x : Reg) (s : State) :
    exec (.ldVxMi x) s = .next (endCycle false ((loadRegs x (advance s)).setI (indexAfterBlock x s))) := rfl

theorem exec_nopT8 (x y n : Nibble) (s : State) : exec (.nopT8 x y n) s = .next (endCycle false (advance s)) := rfl

theorem exec_nopTe (x m n : Nibble) (s : State) : exec (.nopTe x m n) s = .next (endCycle false (advance s)) := rfl

theorem exec_nopTf (x : Nibble) (kk : Byte) (s : State) :
    exec (.nopTf x kk) s = .next (endCycle false (advance s)) := rfl

end Sys2Proof.Machine
end

