-- ==== Sys2Proof/Laws/Display.lean ====
section
/-! SUPPORT. The pixels of the framebuffer after the shared operations of the display. -/

namespace Sys2Proof.Machine

@[simp] theorem pixelAt_blankScreen (px : Fin 64) (py : Fin 32) : pixelAt blankScreen px py = false := by
  simp [pixelAt, blankScreen]

/-- Flipping one pixel flips it and keeps every other one. -/
theorem pixelAt_flipPixel (fb : Framebuffer) (px qx : Fin 64) (py qy : Fin 32) :
    pixelAt (flipPixel fb px py) qx qy =
      if qx = px ∧ qy = py then !(pixelAt fb px py) else pixelAt fb qx qy := by
  by_cases hy : qy = py
  · subst hy
    by_cases hx : qx = px
    · subst hx; simp [pixelAt, flipPixel]
    · have : px.val ≠ qx.val := fun e => hx (Fin.ext e.symm)
      simp [pixelAt, flipPixel, hx, Vector.getElem_set_ne, this]
  · have : py.val ≠ qy.val := fun e => hy (Fin.ext e.symm)
    simp [pixelAt, flipPixel, hy, Vector.getElem_set_ne, this]

/-- One step of the blitter: the pixel is flipped, and a pixel that was on is a collision (R223). -/
theorem blitPixel_pixel (px qx : Fin 64) (py qy : Fin 32) (acc : Framebuffer × Bool) :
    pixelAt (blitPixel px py acc).1 qx qy =
      if qx = px ∧ qy = py then !(pixelAt acc.1 px py) else pixelAt acc.1 qx qy :=
  pixelAt_flipPixel acc.1 px qx py qy

@[simp] theorem blitPixel_collision (px : Fin 64) (py : Fin 32) (acc : Framebuffer × Bool) :
    (blitPixel px py acc).2 = (acc.2 || pixelAt acc.1 px py) := rfl

@[simp] theorem wrapX_val (n : Nat) : (wrapX n).val = n % 64 := rfl

@[simp] theorem wrapY_val (n : Nat) : (wrapY n).val = n % 32 := rfl

end Sys2Proof.Machine
end

