-- ==== Sys2Proof/Laws/PerInstr.lean ====
section
/-! SUPPORT. Statements made per instruction: the family EncodeOp says that an instruction's word has the leading nibble
of its row of the opcode table. -/

namespace Sys2Proof.Laws.EncodeOp

/-- The leading nibble that the opcode table gives a mnemonic. -/
def tableOp (m : String) : Option Nibble := (opcodeTable.find? (fun r => r.mnemonic == m)).map (fun r => opField r.value)

/-- The word of `i` has the leading nibble of its row (spec/30_encoding.md rules R104 and R106). -/
def Statement (i : Instr) : Prop := some (opField (encode i)) = tableOp i.mnemonic

theorem cls : Statement .cls := by
  show some (opField (wordA _ _)) = _
  rw [opField_wordA]
  rfl

theorem ret : Statement .ret := by
  show some (opField (wordA _ _)) = _
  rw [opField_wordA]
  rfl

theorem sys (nnn : Addr12) : Statement (.sys nnn) := by
  show some (opField (wordA _ _)) = _
  rw [opField_wordA]
  rfl

theorem jp (nnn : Addr12) : Statement (.jp nnn) := by
  show some (opField (wordA _ _)) = _
  rw [opField_wordA]
  rfl

theorem call (nnn : Addr12) : Statement (.call nnn) := by
  show some (opField (wordA _ _)) = _
  rw [opField_wordA]
  rfl

theorem seVxByte (x : Reg) (kk : Byte) : Statement (.seVxByte x kk) := by
  show some (opField (wordXK _ _ _)) = _
  rw [opField_wordXK]
  rfl

theorem sneVxByte (x : Reg) (kk : Byte) : Statement (.sneVxByte x kk) := by
  show some (opField (wordXK _ _ _)) = _
  rw [opField_wordXK]
  rfl

theorem seVxVy (x y : Reg) : Statement (.seVxVy x y) := by
  show some (opField (wordXYN _ _ _ _)) = _
  rw [opField_wordXYN]
  rfl

theorem ldVxByte (x : Reg) (kk : Byte) : Statement (.ldVxByte x kk) := by
  show some (opField (wordXK _ _ _)) = _
  rw [opField_wordXK]
  rfl

theorem addVxByte (x : Reg) (kk : Byte) : Statement (.addVxByte x kk) := by
  show some (opField (wordXK _ _ _)) = _
  rw [opField_wordXK]
  rfl

theorem ldVxVy (x y : Reg) : Statement (.ldVxVy x y) := by
  show some (opField (wordXYN _ _ _ _)) = _
  rw [opField_wordXYN]
  rfl

theorem orVxVy (x y : Reg) : Statement (.orVxVy x y) := by
  show some (opField (wordXYN _ _ _ _)) = _
  rw [opField_wordXYN]
  rfl

theorem andVxVy (x y : Reg) : Statement (.andVxVy x y) := by
  show some (opField (wordXYN _ _ _ _)) = _
  rw [opField_wordXYN]
  rfl

theorem xorVxVy (x y : Reg) : Statement (.xorVxVy x y) := by
  show some (opField (wordXYN _ _ _ _)) = _
  rw [opField_wordXYN]
  rfl

theorem addVxVy (x y : Reg) : Statement (.addVxVy x y) := by
  show some (opField (wordXYN _ _ _ _)) = _
  rw [opField_wordXYN]
  rfl

theorem subVxVy (x y : Reg) : Statement (.subVxVy x y) := by
  show some (opField (wordXYN _ _ _ _)) = _
  rw [opField_wordXYN]
  rfl

theorem shrVxVy (x y : Reg) : Statement (.shrVxVy x y) := by
  show some (opField (wordXYN _ _ _ _)) = _
  rw [opField_wordXYN]
  rfl

theorem subnVxVy (x y : Reg) : Statement (.subnVxVy x y) := by
  show some (opField (wordXYN _ _ _ _)) = _
  rw [opField_wordXYN]
  rfl

theorem shlVxVy (x y : Reg) : Statement (.shlVxVy x y) := by
  show some (opField (wordXYN _ _ _ _)) = _
  rw [opField_wordXYN]
  rfl

theorem sneVxVy (x y : Reg) : Statement (.sneVxVy x y) := by
  show some (opField (wordXYN _ _ _ _)) = _
  rw [opField_wordXYN]
  rfl

theorem ldIAddr (nnn : Addr12) : Statement (.ldIAddr nnn) := by
  show some (opField (wordA _ _)) = _
  rw [opField_wordA]
  rfl

theorem jpV0Addr (nnn : Addr12) : Statement (.jpV0Addr nnn) := by
  show some (opField (wordA _ _)) = _
  rw [opField_wordA]
  rfl

theorem rnd (x : Reg) (kk : Byte) : Statement (.rnd x kk) := by
  show some (opField (wordXK _ _ _)) = _
  rw [opField_wordXK]
  rfl

theorem drw (x y : Reg) (n : Nibble) : Statement (.drw x y n) := by
  show some (opField (wordXYN _ _ _ _)) = _
  rw [opField_wordXYN]
  rfl

theorem skp (x : Reg) : Statement (.skp x) := by
  show some (opField (wordXYN _ _ _ _)) = _
  rw [opField_wordXYN]
  rfl

theorem sknp (x : Reg) : Statement (.sknp x) := by
  show some (opField (wordXYN _ _ _ _)) = _
  rw [opField_wordXYN]
  rfl

theorem ldVxDt (x : Reg) : Statement (.ldVxDt x) := by
  show some (opField (wordXK _ _ _)) = _
  rw [opField_wordXK]
  rfl

theorem ldVxK (x : Reg) : Statement (.ldVxK x) := by
  show some (opField (wordXK _ _ _)) = _
  rw [opField_wordXK]
  rfl

theorem ldDtVx (x : Reg) : Statement (.ldDtVx x) := by
  show some (opField (wordXK _ _ _)) = _
  rw [opField_wordXK]
  rfl

theorem ldStVx (x : Reg) : Statement (.ldStVx x) := by
  show some (opField (wordXK _ _ _)) = _
  rw [opField_wordXK]
  rfl

theorem addIVx (x : Reg) : Statement (.addIVx x) := by
  show some (opField (wordXK _ _ _)) = _
  rw [opField_wordXK]
  rfl

theorem ldFVx (x : Reg) : Statement (.ldFVx x) := by
  show some (opField (wordXK _ _ _)) = _
  rw [opField_wordXK]
  rfl

theorem ldBVx (x : Reg) : Statement (.ldBVx x) := by
  show some (opField (wordXK _ _ _)) = _
  rw [opField_wordXK]
  rfl

theorem ldMiVx (x : Reg) : Statement (.ldMiVx x) := by
  show some (opField (wordXK _ _ _)) = _
  rw [opField_wordXK]
  rfl

theorem ldVxMi (x : Reg) : Statement (.ldVxMi x) := by
  show some (opField (wordXK _ _ _)) = _
  rw [opField_wordXK]
  rfl

theorem nopT8 (x y n : Nibble) : Statement (.nopT8 x y n) := by
  show some (opField (wordXYN _ _ _ _)) = _
  rw [opField_wordXYN]
  rfl

theorem nopTe (x m n : Nibble) : Statement (.nopTe x m n) := by
  show some (opField (wordXYN _ _ _ _)) = _
  rw [opField_wordXYN]
  rfl

theorem nopTf (x : Nibble) (kk : Byte) : Statement (.nopTf x kk) := by
  show some (opField (wordXK _ _ _)) = _
  rw [opField_wordXK]
  rfl

end Sys2Proof.Laws.EncodeOp
end

