-- ==== Sys2Proof/Tests/Slice0.lean ====
section
/-! SUPPORT. Small tests: well-formedness, decoding of words written out from the tables of spec/30_encoding.md, one step
from the vectors of spec/95_test_vectors.md (named S1 to S10 and V1 to V80 there), and a witness for the hypotheses of
every obligation. Expected results are the spec's, not the model's. -/

namespace Sys2Proof.Tests

open Sys2Proof.Machine

/-! ### Well-formedness -/

/-- The check refuses a no-op term whose selector bits belong to an instruction (R111). -/
theorem test_ill_formed_sys_cls : (Instr.sys 0x120).wellFormed = false := by decide
theorem test_ill_formed_sys_ret : (Instr.sys 0x00E).wellFormed = false := by decide
theorem test_ill_formed_nopT8 : (Instr.nopT8 1 2 4).wellFormed = false := by decide
theorem test_ill_formed_nopT8_shl : (Instr.nopT8 1 2 0xE).wellFormed = false := by decide
theorem test_ill_formed_nopTe : (Instr.nopTe 3 0 1).wellFormed = false := by decide
theorem test_ill_formed_nopTf : (Instr.nopTf 3 0x33).wellFormed = false := by decide
theorem test_well_formed_noops :
    (Instr.sys 0x123).wellFormed = true ∧ (Instr.nopT8 1 2 0xF).wellFormed = true ∧
    (Instr.nopTe 3 0 0).wellFormed = true ∧ (Instr.nopTf 3 0xFF).wellFormed = true := by decide

/-! ### Decoding, bit by bit: op, x, y or m, n in tables R106 to R110 -/

theorem test_decode_cls : decodeWord 0b0000000011100000 = .cls := by decide
theorem test_decode_ret : decodeWord 0b0000000011101110 = .ret := by decide
theorem test_decode_sys : decodeWord 0b0000000100100011 = .sys 0x123 := by decide
theorem test_decode_jp : decodeWord 0b0001001000110100 = .jp 0x234 := by decide
theorem test_decode_call : decodeWord 0b0010001100000001 = .call 0x301 := by decide
theorem test_decode_seVxByte : decodeWord 0b0011101000101111 = .seVxByte 0xA 0x2F := by decide
theorem test_decode_sneVxByte : decodeWord 0b0100101000101111 = .sneVxByte 0xA 0x2F := by decide
theorem test_decode_seVxVy : decodeWord 0b0101101010110000 = .seVxVy 0xA 0xB := by decide
theorem test_decode_ldVxByte : decodeWord 0b0110101000101111 = .ldVxByte 0xA 0x2F := by decide
theorem test_decode_addVxByte : decodeWord 0b0111010111111110 = .addVxByte 5 0xFE := by decide
theorem test_decode_ldVxVy : decodeWord 0b1000000100100000 = .ldVxVy 1 2 := by decide
theorem test_decode_orVxVy : decodeWord 0b1000000100100001 = .orVxVy 1 2 := by decide
theorem test_decode_andVxVy : decodeWord 0b1000000100100010 = .andVxVy 1 2 := by decide
theorem test_decode_xorVxVy : decodeWord 0b1000000100100011 = .xorVxVy 1 2 := by decide
theorem test_decode_addVxVy : decodeWord 0b1000000100100100 = .addVxVy 1 2 := by decide
theorem test_decode_subVxVy : decodeWord 0b1000000100100101 = .subVxVy 1 2 := by decide
theorem test_decode_shrVxVy : decodeWord 0b1000000100100110 = .shrVxVy 1 2 := by decide
theorem test_decode_subnVxVy : decodeWord 0b1000000100100111 = .subnVxVy 1 2 := by decide
theorem test_decode_shlVxVy : decodeWord 0b1000000100101110 = .shlVxVy 1 2 := by decide
theorem test_decode_sneVxVy : decodeWord 0b1001101010110000 = .sneVxVy 0xA 0xB := by decide
theorem test_decode_ldIAddr : decodeWord 0b1010001011110001 = .ldIAddr 0x2F1 := by decide
theorem test_decode_jpV0Addr : decodeWord 0b1011111111111110 = .jpV0Addr 0xFFE := by decide
theorem test_decode_rnd : decodeWord 0b1100001100001110 = .rnd 3 0x0E := by decide
theorem test_decode_drw : decodeWord 0b1101000100100101 = .drw 1 2 5 := by decide
theorem test_decode_skp : decodeWord 0b1110000110011110 = .skp 1 := by decide
theorem test_decode_sknp : decodeWord 0b1110001110100001 = .sknp 3 := by decide
theorem test_decode_ldVxDt : decodeWord 0b1111001100000111 = .ldVxDt 3 := by decide
theorem test_decode_ldVxK : decodeWord 0b1111001100001010 = .ldVxK 3 := by decide
theorem test_decode_ldDtVx : decodeWord 0b1111001100010101 = .ldDtVx 3 := by decide
theorem test_decode_ldStVx : decodeWord 0b1111001100011000 = .ldStVx 3 := by decide
theorem test_decode_addIVx : decodeWord 0b1111001100011110 = .addIVx 3 := by decide
theorem test_decode_ldFVx : decodeWord 0b1111001100101001 = .ldFVx 3 := by decide
theorem test_decode_ldBVx : decodeWord 0b1111001100110011 = .ldBVx 3 := by decide
theorem test_decode_ldMiVx : decodeWord 0b1111001001010101 = .ldMiVx 2 := by decide
theorem test_decode_ldVxMi : decodeWord 0b1111001001100101 = .ldVxMi 2 := by decide
theorem test_decode_nopT8 : decodeWord 0b1000000100101000 = .nopT8 1 2 8 := by decide
theorem test_decode_nopTe : decodeWord 0b1110001100000000 = .nopTe 3 0 0 := by decide
theorem test_decode_nopTf : decodeWord 0b1111001111111111 = .nopTf 3 0xFF := by decide

/-- The aliased words of R112 and of vectors V4, V13, V20, V68. -/
theorem test_decode_aliases :
    decodeWord 0x0000 = .cls ∧ decodeWord 0x0120 = .cls ∧ decodeWord 0x012E = .ret ∧ decodeWord 0x5121 = .seVxVy 1 2 ∧
    decodeWord 0x912F = .sneVxVy 1 2 ∧ decodeWord 0xE31E = .skp 3 ∧ decodeWord 0xE35E = .skp 3 ∧
    decodeWord 0xE321 = .sknp 3 := by decide

theorem test_decodeTableWord : decodeTableWord 16 0xF265 = some (.ldVxMi 2) ∧ decodeTableWord 16 0 = some .cls := by
  decide
theorem test_decodeBytes_truncated : decodeBytes [0x12] = .error .truncated := by rfl
theorem test_opcodeTable_size : opcodeTable.length = 38 := by decide

/-! ### Assembler (R115, R116) -/

theorem test_text_disassembly :
    (disassemble (.drw 0xA 2 5)).text = ['D', 'R', 'W', ' ', 'V', 'A', ',', ' ', 'V', '2', ',', ' ', '0', 'x', '5'] := by
  decide
theorem test_text_read :
    (readLine ['S', 'H', 'R', ' ', 'V', '1', ',', ' ', 'V', '2']).bind assemble = some 0x8126 := by decide

/-! ### One step. The word is stored at pc, where withFetchWord puts it -/

/-- The next state of an outcome. -/
def nextOf : Host.Outcome State Fault Refusal → Option State
  | .next s    => some s
  | .fault _   => none
  | .refused _ => none

/-- The reset state with some registers set. -/
def regs (l : List (Reg × Byte)) : State := l.foldl (fun s p => s.setReg p.1 p.2) State.reset

/-- What one step of the word shows of the next state. -/
def run {α : Type} (w : Nat) (s : State) (view : State → α) : Option α :=
  (nextOf (step (s.withFetchWord 16 w))).map view

/-- The reset state at `pc` with `n` stack entries in use, each `v`. -/
def stacked (pc : Word) (n : Fin 17) (v : Word) : State :=
  { State.reset with pc := pc, SP := n, stack := Vector.replicate 16 v }

/-- The reset state with some keys pressed. -/
def keys (l : List Nibble) : State := { State.reset with key := Vector.ofFn (fun k => l.contains k) }

/-- A configuration other than the default. -/
def variantB : Config := { shift := .B, ldst := .advanceI }

/-- The other variant of both pairs, on a state. -/
def asB (s : State) : State := { s with cfg := variantB }

theorem test_fetchWord_runs : fetchInstr (State.reset.withFetchWord 16 0xD125) = .drw 1 2 5 := by decide
/-- V4, S1. -/
theorem test_cls : run 0x0000 { State.reset with fb := flipPixel blankScreen 63 31 }
    (fun t => (pixelAt t.fb 63 31, t.pc)) = some (false, 0x202) := by decide
/-- V13. -/
theorem test_ret_alias : run 0x012E (stacked 0x300 1 0x242) (fun t => (t.pc, t.SP)) = some (0x242, 0) := by decide
/-- V14. -/
theorem test_ret_underflow : run 0x00EE { stacked 0x300 0 0 with DT := 5 }
    (fun t => (t.pc, t.DT, t.SP, haltPort t)) = some (0x300, 5, 0, true, 2) := by decide
/-- V3. -/
theorem test_sys : run 0x0123 State.reset (fun t => (t.pc, t.V, t.halted)) =
    some (0x202, State.reset.V, false) := by decide
/-- V8: a masked fetch. -/
theorem test_jp : run 0x1200 { State.reset with pc := 0xFFFE } (fun t => t.pc) = some 0x0200 := by decide
/-- V16. -/
theorem test_call_sixteenth : run 0x2300 (stacked 0x240 15 0) (fun t => (t.pc, t.stack[15], t.SP)) =
    some (0x300, 0x242, 16) := by decide
/-- V15. -/
theorem test_call_overflow : run 0x2300 { stacked 0x240 16 0x202 with DT := 5 }
    (fun t => (t.pc, t.SP, t.DT, t.stack[15], haltPort t)) = some (0x240, 16, 5, 0x202, true, 1) := by decide
/-- V24: advance and skip wrap. -/
theorem test_seVxByte : run 0x3A2F { regs [(0xA, 0x2F)] with pc := 0xFFFE } (fun t => t.pc) = some 0x0002 := by decide
/-- V19. -/
theorem test_sneVxByte : run 0x4A2F (regs [(0xA, 0x2F)]) (fun t => t.pc) = some 0x202 := by decide
/-- V20. -/
theorem test_seVxVy : run 0x5AB3 (regs [(0xA, 1), (0xB, 1)]) (fun t => t.pc) = some 0x204 := by decide
/-- V21. -/
theorem test_sneVxVy : run 0x9AB0 (regs [(0xA, 1), (0xB, 2)]) (fun t => t.pc) = some 0x204 := by decide
/-- V6: the second byte of the word wraps to address 0. -/
theorem test_ldVxByte_wrapped_fetch :
    (nextOf (step { State.reset with pc := 0x0FFF, mem := [(0x000, 0x23), (0xFFF, 0x61)] })).map
      (fun t => (t.reg 1, t.pc)) = some (0x23, 0x1001) := by decide
/-- V7: an odd pc. -/
theorem test_ldVxByte_odd_pc :
    (nextOf (step { State.reset with pc := 0x0201, mem := [(0x201, 0x62), (0x202, 0x05)] })).map
      (fun t => (t.reg 2, t.pc)) = some (0x05, 0x0203) := by decide
/-- V26. -/
theorem test_addVxByte : run 0x75FF (regs [(5, 0x02), (0xF, 0x77)]) (fun t => (t.reg 5, t.reg 0xF)) =
    some (0x01, 0x77) := by decide
/-- V27. -/
theorem test_ldVxVy : run 0x8120 (regs [(2, 0x33)]) (fun t => t.reg 1) = some 0x33 := by decide
/-- V28. -/
theorem test_orVxVy : run 0x8121 (regs [(1, 0xF0), (2, 0x0C), (0xF, 0x55)]) (fun t => (t.reg 1, t.reg 0xF)) =
    some (0xFC, 0x55) := by decide
/-- V29. -/
theorem test_andVxVy : run 0x8122 (regs [(1, 0xF0), (2, 0x3C)]) (fun t => t.reg 1) = some 0x30 := by decide
/-- The example of R176. -/
theorem test_xorVxVy : run 0x8123 (regs [(1, 0xF0), (2, 0x3C)]) (fun t => t.reg 1) = some 0xCC := by decide
/-- S2. -/
theorem test_addVxVy_carry : run 0x8124 (regs [(1, 200), (2, 100)]) (fun t => (t.reg 1, t.reg 0xF, t.reg 2)) =
    some (44, 1, 100) := by decide
/-- V33. -/
theorem test_addVxVy_into_VF : run 0x8F14 (regs [(0xF, 200), (1, 100)]) (fun t => (t.reg 0xF, t.reg 1)) =
    some (0x2C, 100) := by decide
/-- S4. -/
theorem test_subVxVy_borrow : run 0x8125 (regs [(1, 5), (2, 10)]) (fun t => (t.reg 1, t.reg 0xF)) =
    some (251, 0) := by decide
/-- V36. -/
theorem test_subVxVy_equal : run 0x8125 (regs [(1, 7), (2, 7)]) (fun t => (t.reg 1, t.reg 0xF)) = some (0, 0) := by
  decide
/-- V39. -/
theorem test_subnVxVy_borrow : run 0x8127 (regs [(1, 10), (2, 5)]) (fun t => (t.reg 1, t.reg 0xF)) =
    some (251, 0) := by decide
/-- V38. -/
theorem test_subnVxVy_greater : run 0x8127 (regs [(1, 5), (2, 10)]) (fun t => (t.reg 1, t.reg 0xF)) =
    some (5, 1) := by decide
/-- V42: variant B. -/
theorem test_shrVxVy_B : run 0x8126 (asB (regs [(1, 0x05), (2, 0xFF)])) (fun t => (t.reg 1, t.reg 0xF, t.reg 2)) =
    some (0x7F, 1, 0xFF) := by decide
/-- V45. -/
theorem test_shrVxVy_into_VF : run 0x8F06 (regs [(0xF, 0x06)]) (fun t => t.reg 0xF) = some 0x03 := by decide
/-- V44: variant B. -/
theorem test_shlVxVy_B : run 0x812E (asB (regs [(1, 0x81), (2, 0x40)])) (fun t => (t.reg 1, t.reg 0xF, t.reg 2)) =
    some (0x80, 0, 0x40) := by decide
/-- V43. -/
theorem test_shlVxVy_A : run 0x810E (regs [(1, 0x81)]) (fun t => (t.reg 1, t.reg 0xF)) = some (0x02, 1) := by decide
/-- V48: the generator advances under the mask 0 too. -/
theorem test_rnd_advances : run 0xC300 (regs [(3, 9)]) (fun t => t.rngState.draws) = some 1 := by decide
/-- V49. -/
theorem test_ldIAddr : run 0xA123 { State.reset with I := 0xF000 } (fun t => t.I) = some 0x0123 := by decide
/-- V23. -/
theorem test_jpV0Addr : run 0xBFFF (regs [(0, 0x10)]) (fun t => t.pc) = some 0x100F := by decide
/-- V50. -/
theorem test_addIVx : run 0xF31E { regs [(3, 0x10), (0xF, 0x42)] with I := 0xFFF8 } (fun t => (t.I, t.reg 0xF)) =
    some (0x0008, 0x42) := by decide
/-- V52. -/
theorem test_ldFVx : run 0xF329 (regs [(3, 0x0F)]) (fun t => t.I) = some 0x009B := by decide
/-- V53. -/
theorem test_ldFVx_halts : run 0xF329 { regs [(3, 0x10)] with DT := 4 } (fun t => (t.pc, t.I, t.DT, haltPort t)) =
    some (0x200, 0, 4, true, 4) := by decide
/-- V55: the third digit wraps to address 0. -/
theorem test_ldBVx_wraps : run 0xF333 { regs [(3, 255)] with I := 0x0FFE }
    (fun t => (memRead t 0xFFE, memRead t 0xFFF, memRead t 0x000)) = some (2, 5, 5) := by decide
/-- S6. -/
theorem test_ldBVx : run 0xF333 { regs [(3, 157)] with I := 0x300 } (fun t => (t.mem.readBytes 0x300 3, t.I)) =
    some ([1, 5, 7], 0x300) := by decide
/-- V56: ADVANCE_I. -/
theorem test_ldMiVx_advance : run 0xFF55
    (asB { State.reset with I := 0x300, V := Vector.ofFn (fun r => BitVec.ofNat 8 r.val) })
    (fun t => (memRead t 0x300, memRead t 0x301, memRead t 0x30F, memRead t 0x310, t.I)) =
    some (0, 1, 15, 0, 0x0310) := by decide
/-- V57: KEEP_I. -/
theorem test_ldMiVx_keep : run 0xF255 { regs [(0, 1), (1, 2), (2, 3), (3, 4)] with I := 0x300 }
    (fun t => (t.mem.readBytes 0x300 4, t.I)) = some ([1, 2, 3, 0], 0x0300) := by decide
/-- V58: ADVANCE_I. -/
theorem test_ldVxMi_advance : run 0xF065 (asB { State.reset with I := 0x0FFF, mem := [(0xFFF, 0xAA)] })
    (fun t => (t.reg 0, t.I)) = some (0xAA, 0x1000) := by decide
/-- V59: KEEP_I, wrapping. -/
theorem test_ldVxMi_wraps : run 0xF165 { State.reset with I := 0x0FFF, mem := [(0x000, 0xBB), (0xFFF, 0xAA)] }
    (fun t => (t.reg 0, t.reg 1, t.reg 2, t.I)) = some (0xAA, 0xBB, 0, 0x0FFF) := by decide
/-- V60: wrapped per pixel. -/
theorem test_drw_wraps : run 0xD121 { regs [(1, 60), (2, 31)] with I := 0x300, mem := [(0x300, 0xFF)] }
    (fun t => ([60, 63, 0, 3, 4].map (fun px => pixelAt t.fb px 31), pixelAt t.fb 0 0, t.reg 0xF)) =
    some ([true, true, true, true, false], false, 0) := by decide
/-- V62: the origin wraps, one pixel collides. -/
theorem test_drw_collides : run 0xD122 { regs [(1, 70), (2, 33)] with
    I := 0x300, mem := [(0x300, 0x80), (0x301, 0x01)], fb := flipPixel blankScreen 13 2 }
    (fun t => (pixelAt t.fb 6 1, pixelAt t.fb 13 2, t.reg 0xF)) = some (true, false, 1) := by decide
/-- V68. -/
theorem test_skp : run 0xE35E { keys [2] with V := (regs [(3, 2)]).V } (fun t => t.pc) = some 0x204 := by decide
/-- V69. -/
theorem test_skp_halts : run 0xE39E { regs [(3, 16)] with DT := 4 } (fun t => (t.pc, t.DT, haltPort t)) =
    some (0x200, 4, true, 3) := by decide
/-- V67. -/
theorem test_sknp_pressed : run 0xE3A1 { keys [15] with V := (regs [(3, 15)]).V } (fun t => t.pc) = some 0x202 := by
  decide
/-- The example of R242. -/
theorem test_sknp_released : run 0xE1A1 (regs [(1, 5)]) (fun t => t.pc) = some 0x204 := by decide
/-- V70. -/
theorem test_ldVxK_lowest : run 0xF00A (keys [8, 3]) (fun t => (t.reg 0, t.pc, t.blocked)) =
    some (3, 0x202, false) := by decide
/-- V71. -/
theorem test_ldVxK_waits : run 0xF00A { State.reset with pc := 0, DT := 2 } (fun t => (t.pc, t.DT, t.blocked)) =
    some (0, 1, true) := by decide
/-- V76. -/
theorem test_ldVxDt : run 0xF307 { State.reset with DT := 1 } (fun t => (t.reg 3, t.DT)) = some (1, 0) := by decide
/-- V74. -/
theorem test_ldDtVx : run 0xF315 (regs [(3, 1)]) (fun t => t.DT) = some 0 := by decide
/-- V75. -/
theorem test_ldStVx : run 0xF318 (regs [(3, 5)]) (fun t => (t.ST, stPort t)) = some (4, 4) := by decide
/-- V1. -/
theorem test_nopT8 : run 0x8128 { regs [(1, 3), (2, 4)] with DT := 3 } (fun t => (t.pc, t.DT, t.reg 1)) =
    some (0x202, 2, 3) := by decide
/-- V5. -/
theorem test_nopTe : run 0xE300 { keys [2] with V := (regs [(3, 2)]).V } (fun t => (t.pc, t.halted)) =
    some (0x202, false) := by decide
/-- V2. -/
theorem test_nopTf : run 0xF3FF { regs [(3, 3)] with DT := 3 } (fun t => (t.pc, t.DT, t.reg 3)) =
    some (0x202, 2, 3) := by decide
/-- V9. -/
theorem test_halted : step (haltEntry .stackOverflow State.reset) = .fault (.cycleWhileHalted .stackOverflow) := by rfl
/-- V77. -/
theorem test_reset : (State.reset.pc, memRead State.reset 0x050, memRead State.reset 0x09B, memRead State.reset 0x09F,
    memRead State.reset 0x0A0, memRead State.reset 0x04F) = (0x200, 0xF0, 0xF0, 0x80, 0, 0) := by decide
/-- V78. -/
theorem test_loadRom : (loadRom [0x12, 0x00] State.reset).2.mem.readBytes 0x200 2 = [0x12, 0x00] := by decide

/-! ### Witnesses: the hypotheses of the obligations can be met together -/

/-- The words of the encoding clauses: one for each table entry that a clause names by its fields. -/
theorem witness_encoding_clauses :
    (opField 0x0120 = 0x0 ∧ nField 0x0120 = 0x0) ∧ (opField 0x00EE = 0x0 ∧ nField 0x00EE = 0xE) ∧
    (opField 0x0123 = 0x0 ∧ nField 0x0123 ≠ 0x0 ∧ nField 0x0123 ≠ 0xE) ∧ opField 0x1FFF = 0x1 ∧ opField 0x2300 = 0x2 ∧
    opField 0x3A2F = 0x3 ∧ opField 0x4A2F = 0x4 ∧ opField 0x5AB3 = 0x5 ∧ opField 0x6A2F = 0x6 ∧ opField 0x75FF = 0x7 ∧
    opField 0x9AB0 = 0x9 ∧ opField 0xA123 = 0xA ∧ opField 0xBFFF = 0xB ∧ opField 0xC30F = 0xC ∧
    opField 0xD125 = 0xD := by decide
theorem witness_encoding_clauses_T8 :
    (∀ n : Nibble, opField (wordXYN 0x8 1 2 n) = 0x8 ∧ nField (wordXYN 0x8 1 2 n) = n) ∧
    nField 0x812F ∈ ([0x8, 0x9, 0xA, 0xB, 0xC, 0xD, 0xF] : List Nibble) := by decide
theorem witness_encoding_clauses_TE_TF :
    (opField 0xE19E = 0xE ∧ nField 0xE19E = 0xE) ∧ (opField 0xE3A1 = 0xE ∧ nField 0xE3A1 = 0x1) ∧
    (opField 0xE300 = 0xE ∧ nField 0xE300 ≠ 0x1 ∧ nField 0xE300 ≠ 0xE) ∧
    (∀ kk ∈ tfSelectors, opField (wordXK 0xF 3 kk) = 0xF ∧ kkField (wordXK 0xF 3 kk) = kk) ∧
    (opField 0xF3FF = 0xF ∧ kkField 0xF3FF ∉ tfSelectors) := by decide
/-- DecodeInvertsEncode. -/
theorem witness_wellFormed : (Instr.drw 0xF 0 0xF).wellFormed = true ∧ (Instr.nopTf 0xF 0x34).wellFormed = true := by
  decide
/-- IgnoredBitsDoNotSelect, each clause: two different words that meet its premises. -/
theorem witness_ignored_bits :
    (opField 0x0120 = opField 0x00E0 ∧ opField 0x00E0 = 0 ∧ nField 0x0120 = nField 0x00E0 ∧ nField 0x00E0 = 0) ∧
    (opField 0x012E = opField 0x00EE ∧ opField 0x00EE = 0 ∧ nField 0x012E = nField 0x00EE ∧ nField 0x00EE = 0xE) ∧
    (opField 0x512F = opField 0x5120 ∧ opField 0x5120 = 5 ∧ xField 0x512F = xField 0x5120 ∧
      yField 0x512F = yField 0x5120) ∧
    (opField 0x912F = opField 0x9120 ∧ opField 0x9120 = 9 ∧ xField 0x912F = xField 0x9120 ∧
      yField 0x912F = yField 0x9120) ∧
    (opField 0xE321 = opField 0xE3A1 ∧ opField 0xE3A1 = 0xE ∧ xField 0xE321 = xField 0xE3A1 ∧
      nField 0xE321 = nField 0xE3A1 ∧ nField 0xE3A1 = 1) ∧
    (opField 0xE31E = opField 0xE39E ∧ opField 0xE39E = 0xE ∧ xField 0xE31E = xField 0xE39E ∧
      nField 0xE31E = nField 0xE39E ∧ nField 0xE39E = 0xE) := by decide
/-- StepRunsTheFetchedInstruction. -/
theorem witness_step_runs :
    let s := State.reset.withFetchWord 16 0xF265
    s.halted = false ∧ (Instr.ldVxMi 2).wellFormed = true ∧
      decodeBytes [memRead s s.pc.toNat, memRead s (s.pc.toNat + 1)] = .ok (.ldVxMi 2, []) := ⟨rfl, rfl, rfl⟩
/-- HaltedCoreTakesNoCycle; HaltEntryCommitsNothing and EveryCycleReturnsItsResult for each reason. -/
theorem witness_halted : (haltEntry .stackUnderflow State.reset).halted = true := by decide
theorem witness_haltsIn :
    haltsIn (.call 0x300) (stacked 0x240 16 0) = some .stackOverflow ∧
    haltsIn .ret (stacked 0x240 0 0) = some .stackUnderflow ∧
    haltsIn (.skp 3) (regs [(3, 16)]) = some .keyIndexOutOfRange ∧
    haltsIn (.sknp 3) (regs [(3, 255)]) = some .keyIndexOutOfRange ∧
    haltsIn (.ldFVx 3) (regs [(3, 16)]) = some .fontDigitOutOfRange := by decide
theorem witness_haltsIn_fetched :
    let s := (stacked 0x240 0 0).withFetchWord 16 0x00EE
    s.halted = false ∧ haltsIn (fetchInstr s) s = some .stackUnderflow := by decide
/-- EveryCycleReturnsItsResult and OnlyTheHaltConditionsHalt, at the last values that do not halt. -/
theorem witness_haltsIn_none :
    haltsIn (.call 0x300) (stacked 0x240 15 0) = none ∧ haltsIn .ret (stacked 0x240 1 0) = none ∧
    haltsIn (.skp 3) (regs [(3, 15)]) = none ∧ haltsIn (.ldFVx 3) (regs [(3, 15)]) = none ∧
    haltsIn (fetchInstr State.reset) State.reset = none := by decide
theorem witness_exec_next : ∃ t, haltsIn .ret (stacked 0x240 1 0x222) = none ∧
    exec .ret (stacked 0x240 1 0x222) = .next t ∧ t.halted = false := ⟨_, rfl, rfl, rfl⟩
/-- FetchIsBigEndianAndMasked, second clause. -/
theorem witness_fetch_wraps : ({ State.reset with pc := 0xFFFF } : State).pc.toNat % 4096 = 0xFFF := by decide
/-- TimersTickOncePerCompletedCycle, SoundTimerIsReadByNoInstruction, DelayTimerIsReadByOneInstruction: each clause. -/
theorem witness_ticks : ∃ t u v, State.reset.halted = false ∧
    (exec .cls State.reset = .next t ∧ t.halted = false) ∧
    (exec (.ldDtVx 3) (regs [(3, 255)]) = .next u ∧ u.halted = false ∧ ∀ x, Instr.ldDtVx 3 ≠ .ldStVx x) ∧
    (exec (.ldStVx 3) (regs [(3, 0)]) = .next v ∧ v.halted = false ∧ ∀ x, Instr.ldStVx 3 ≠ .ldDtVx x) :=
  ⟨_, _, _, rfl, ⟨rfl, rfl⟩, ⟨rfl, rfl, by simp⟩, ⟨rfl, rfl, by simp⟩⟩
theorem witness_not_read_delay : (∀ x, Instr.cls ≠ .ldVxDt x) ∧ (∀ x, Instr.ldStVx 1 ≠ .ldVxDt x) := by simp
/-- BlockedExactlyAfterAnUnansweredWait: a wait, and a key that ends it. -/
theorem witness_blocked : ∃ t u, State.reset.halted = false ∧
    (exec (.ldVxK 3) State.reset = .next t ∧ t.halted = false ∧ t.blocked = true) ∧
    (exec (.ldVxK 3) (keys [15]) = .next u ∧ u.halted = false ∧ u.blocked = false) :=
  ⟨_, _, rfl, ⟨rfl, rfl, rfl⟩, ⟨rfl, rfl, rfl⟩⟩
/-- A blocked state at the wait-for-key it repeats. -/
def waitingState : State := { State.reset.withFetchWord 16 0xF30A with blocked := true }
/-- StepKeepsTheStateInvariant. -/
theorem witness_invariant : StateInv waitingState ∧ ∃ t, step waitingState = .next t :=
  ⟨⟨writeBytes_wf _ _ nil_wf, by decide, fun _ => ⟨3, by decide⟩, by decide⟩, ⟨_, rfl⟩⟩
/-- ReachableStatesMeetTheInvariant: a core that waits for a key, one that halts. -/
theorem witness_reachable : ∃ s u, Reachable s ∧ s.blocked = true ∧ Reachable u ∧ u.halted = true :=
  ⟨_, _, ⟨Config.default, 0, [0xF3, 0x0A], [.cycle], rfl⟩, rfl,
    ⟨variantB, 7, [0x00, 0xEE], [.writeKeys State.reset.key, .cycle], rfl⟩, rfl⟩
/-- CanonicalMemoriesReadingAlikeAreEqual: the lowest and the highest address, and a font byte overwritten. -/
theorem witness_canonical : Memory.wf [(0x000, 1), (0x050, 0), (0xFFF, 2)] := by decide
/-- RomLoadIsVerbatimOrRejected: the largest ROM and the smallest too large; an empty one leaves 0x200 as it was. -/
theorem witness_rom : (List.replicate 3584 (1 : Byte)).length ≤ 3584 ∧ 3584 < (List.replicate 3585 (1 : Byte)).length :=
  ⟨(List.length_replicate (n := 3584)).le, by rw [List.length_replicate]; exact Nat.lt_succ_self 3584⟩
theorem witness_rom_keeps : 0x200 < 4096 ∧ 0x200 + ([] : List Byte).length ≤ 0x200 ∧ 0xFFF < 4096 := by decide
/-- FramebufferPortIsRowMajor: the last pixel. -/
theorem witness_port : (31 : Fin 32).val * 64 + (63 : Fin 64).val < 2048 := by decide
/-- KeyLatchIsReadByThreeAndWrittenByNone, ConfigurationIsReadByFourAndWrittenByNone: instructions outside the lists, a
halting one among them, and a host move. -/
theorem witness_readers :
    (∀ x, Instr.ret ≠ .skp x ∧ Instr.ret ≠ .sknp x ∧ Instr.ret ≠ .ldVxK x) ∧
    (∀ x y, Instr.skp 3 ≠ .shrVxVy x y ∧ Instr.skp 3 ≠ .shlVxVy x y ∧ Instr.skp 3 ≠ .ldMiVx x ∧
      Instr.skp 3 ≠ .ldVxMi x) ∧ ∃ t, hostMove .reset State.reset = some t := by
  refine ⟨by simp, by simp, ⟨_, rfl⟩⟩
/-- StateElementsAreWrittenOnlyByTheirInstructions, each clause; FX55 under KEEP_I for the index. -/
theorem witness_writers :
    (∃ t, exec (.ldMiVx 15) State.reset = .next t) ∧
    (∀ n x, Instr.ldMiVx 15 ≠ .ldIAddr n ∧ Instr.ldMiVx 15 ≠ .addIVx x ∧ Instr.ldMiVx 15 ≠ .ldFVx x) ∧
    State.reset.cfg.ldst = .keepI ∧ (∀ x, Instr.cls ≠ .ldMiVx x ∧ Instr.cls ≠ .ldVxMi x) ∧
    (∀ n, Instr.cls ≠ .call n ∧ Instr.cls ≠ .ret) ∧ (∀ x, Instr.cls ≠ .ldBVx x ∧ Instr.cls ≠ .ldMiVx x) ∧
    (∀ x y n, Instr.ret ≠ .cls ∧ Instr.ret ≠ .drw x y n) ∧ (∀ x kk, Instr.cls ≠ .rnd x kk) := by
  refine ⟨⟨_, rfl⟩, ?_, rfl, ?_, ?_, ?_, ?_, ?_⟩ <;> simp
/-- RegistersWrittenAreTheNamedOnes: V14 beside VF, V3 above V2. -/
theorem witness_mayWriteReg :
    (∃ t, exec (.drw 1 2 5) State.reset = .next t) ∧ mayWriteReg (.drw 1 2 5) 14 = false ∧
    mayWriteReg (.ldVxMi 2) 3 = false ∧ mayWriteReg (.addVxVy 1 2) 2 = false := ⟨⟨_, rfl⟩, rfl, rfl, rfl⟩
/-- StoresAreFetchedByTheNextCycle: also where pc + 2 wraps in memory. -/
theorem witness_self_modifying :
    ({ State.reset with I := 0x202 } : State).I.toNat % 4096 = (State.reset.pc + 2).toNat % 4096 ∧
    (0x0001 : Word).toNat % 4096 = ((0x0FFF : Word) + 2).toNat % 4096 ∧ 1 ≤ (1 : Reg).val := by decide
/-- CallPushesAndJumps, ReturnUndoesCall, ReturnPopsOrUnderflows: SP at the ends of each clause. -/
theorem witness_stack :
    (stacked 0x240 0 0).SP.val < 16 ∧ (stacked 0x240 15 0).SP.val < 16 ∧ (stacked 0x240 16 0).SP.val = 16 ∧
    0 < (stacked 0x240 1 0).SP.val ∧ 0 < (stacked 0x240 16 0).SP.val ∧ (stacked 0x240 0 0).SP.val = 0 := by decide
/-- NoOpsOnlyAdvance. -/
theorem witness_noops : (∃ nnn, Instr.sys 0x123 = .sys nnn) ∧ (∃ x y n, Instr.nopT8 1 2 8 = .nopT8 x y n) ∧
    (∃ x m n, Instr.nopTe 3 0 0 = .nopTe x m n) ∧ (∃ x kk, Instr.nopTf 3 0xFF = .nopTf x kk) :=
  ⟨⟨_, rfl⟩, ⟨_, _, _, rfl⟩, ⟨_, _, _, rfl⟩, ⟨_, _, rfl⟩⟩
/-- AddSetsCarry, SubtractSetsStrictNoBorrow, ShiftsMoveOneBitOut: a destination below VF, and the source of a shift
under each variant. -/
theorem witness_destination : (14 : Reg) ≠ VF ∧ State.reset.cfg.shift = .A ∧ (asB State.reset).cfg.shift = .B := by
  decide
theorem witness_shift_source :
    (∃ src, (State.reset.cfg.shift = .A → src = State.reset.reg 1) ∧
      (State.reset.cfg.shift = .B → src = State.reset.reg 2)) ∧
    (∃ src, ((asB State.reset).cfg.shift = .A → src = (asB State.reset).reg 1) ∧
      ((asB State.reset).cfg.shift = .B → src = (asB State.reset).reg 2)) :=
  ⟨⟨0, by decide, by decide⟩, ⟨0, by decide, by decide⟩⟩
/-- FontDigitSelectsGlyph: each clause at its boundary. -/
theorem witness_font_digit :
    ((regs [(3, 15)]).reg 3).toNat ≤ 15 ∧ 15 < ((regs [(3, 16)]).reg 3).toNat := by decide
/-- RegisterDumpStoresUpToX, RegisterLoadReadsUpToX, DumpThenLoadGivesTheRegistersBack. -/
theorem witness_block : (15 : Reg) ≤ 15 ∧ (0 : Reg) < 1 ∧ State.reset.cfg.ldst = .keepI ∧
    (asB State.reset).cfg.ldst = .advanceI := by decide
/-- A one-row sprite of one pixel, its first, at (63, 31). -/
def dotState (lit : Bool) : State :=
  { regs [(1, 63), (2, 31)] with
    I := 0x300, mem := [(0x300, 0x80)], fb := if lit then flipPixel blankScreen 63 31 else blankScreen }
theorem dot_hits (lit : Bool) : SpriteHits 1 2 1 (dotState lit) 63 31 := by
  refine ⟨0, by decide, 0, by decide, ?_⟩
  cases lit <;> decide
/-- DrawFlipsExactlyTheSpritePixels: a hit pixel on, all hit pixels off, a pixel not hit. -/
theorem witness_draw_on : SpriteHits 1 2 1 (dotState true) 63 31 ∧ pixelAt (dotState true).fb 63 31 = true :=
  ⟨dot_hits true, by decide⟩
theorem witness_draw_off : ∀ px py, SpriteHits 1 2 1 (dotState false) px py → pixelAt (dotState false).fb px py = false :=
  fun px py _ => by simp [dotState, pixelAt, blankScreen]
theorem witness_draw_missed : ¬ SpriteHits 1 2 0 (dotState true) 63 31 := by
  rintro ⟨row, h, _⟩
  exact absurd h (Nat.not_lt_zero row)
/-- DrawingTwiceRestoresTheScreen: coordinates not in VF; a sprite pixel off; every sprite pixel on. -/
theorem witness_draw_twice : (1 : Reg) ≠ VF ∧ (2 : Reg) ≠ VF ∧
    (∃ px py, SpriteHits 1 2 1 (dotState false) px py ∧ pixelAt (dotState false).fb px py = false) :=
  ⟨by decide, by decide, 63, 31, dot_hits false, by decide⟩
theorem witness_draw_twice_all_on :
    ∀ px py, SpriteHits 1 2 1 (dotState true) px py → pixelAt (dotState true).fb px py = true := by
  rintro px py ⟨row, hr, col, hc, hx, hy, hb⟩
  obtain rfl : row = 0 := Nat.lt_one_iff.mp hr
  obtain rfl : col = 0 := (show ∀ c < 8, (memRead (dotState true) ((dotState true).I.toNat + 0)).getLsbD (7 - c) = true →
    c = 0 by decide) col hc hb
  obtain rfl : px = 63 := Fin.ext hx
  obtain rfl : py = 31 := Fin.ext hy
  decide
/-- KeySkipsReadTheLevel: the lowest and the highest key, the lowest index that halts. -/
theorem witness_key_index :
    ((regs [(3, 0)]).reg 3).toNat = (0 : Nibble).val ∧ ((regs [(3, 15)]).reg 3).toNat = (15 : Nibble).val ∧
    15 < ((regs [(3, 16)]).reg 3).toNat := by decide
/-- WaitForKeyStoresLowestOrRepeats: the highest key alone, the lowest with others, none. -/
theorem witness_keys :
    ((keys [15]).key[(15 : Nibble)] = true ∧ ∀ j : Nibble, j < 15 → (keys [15]).key[j] = false) ∧
    ((keys [0, 9]).key[(0 : Nibble)] = true ∧ ∀ j : Nibble, j < 0 → (keys [0, 9]).key[j] = false) ∧
    (∀ k : Nibble, State.reset.key[k] = false) := by decide

end Sys2Proof.Tests
end

section
/-! PROOF. The timers and the instructions (spec/10_state.md rules R38 and R39; O27 and O28). One lemma,
`exec_ignoresTimers`, says what every instruction but LD Vx, DT, LD DT, Vx and LD ST, Vx does with the timers: it counts
both down, or halts and keeps both, and nothing else of its answer depends on them. That is both the frame and the
noninterference; the three instructions left over are read off their equations in Laws/Exec.lean. -/

namespace Sys2Proof.Machine

/-- The state with both timers overwritten. -/
def State.withTimers (d e : Byte) (s : State) : State := { s with DT := d, ST := e }

theorem skipIf_withTimers (c : Bool) (d e : Byte) (s : State) :
    skipIf c (s.withTimers d e) = (skipIf c s).withTimers d e := by
  cases c <;> rfl

/-- From `s`, whatever the timers hold, `i` answers one state `t` up to its timers, and these are counted down, or, where
`i` halts, kept. -/
def IgnoresTimers (i : Instr) (s : State) : Prop :=
  ∃ t f, (f = countdown ∨ f = id ∧ t.halted = true) ∧
    ∀ d e, exec i (s.withTimers d e) = .next (State.withTimers (f d) (f e) t)

/-- A cycle that completes with the timers passed through the handler. The first hypothesis, which the second implies,
is the instruction's own equation: a use of the lemma reads `u` off it. -/
theorem IgnoresTimers.of_endCycle {i : Instr} {s u : State} {w : Bool} (_ : exec i s = .next (endCycle w u))
    (h : ∀ d e, exec i (s.withTimers d e) = .next (endCycle w (u.withTimers d e))) : IgnoresTimers i s :=
  ⟨endCycle w u, countdown, .inl rfl, h⟩

/-- A cycle that halts whatever the timers hold. -/
theorem IgnoresTimers.of_haltEntry {i : Instr} {s : State} {r : HaltReason}
    (h : ∀ d e, exec i (s.withTimers d e) = .next (haltEntry r (s.withTimers d e))) : IgnoresTimers i s :=
  ⟨haltEntry r s, id, .inr ⟨rfl, rfl⟩, h⟩

/-- An instruction that skips under a condition the timers have no part in. -/
theorem IgnoresTimers.of_skipIf {i : Instr} {s : State} {c : Bool}
    (hs : exec i s = .next (endCycle false (skipIf c (advance s))))
    (h : ∀ d e, exec i (s.withTimers d e) = .next (endCycle false (skipIf c (advance (s.withTimers d e))))) :
    IgnoresTimers i s :=
  .of_endCycle hs fun d e => (h d e).trans (by rw [← skipIf_withTimers]; rfl)

/-- Every instruction ignores the timers but the three that name one. -/
theorem exec_ignoresTimers (i : Instr) (s : State) :
    (∃ x, i = .ldVxDt x ∨ i = .ldDtVx x ∨ i = .ldStVx x) ∨ IgnoresTimers i s := by
  cases i with
  | ldVxDt x => exact .inl ⟨x, .inl rfl⟩
  | ldDtVx x => exact .inl ⟨x, .inr (.inl rfl)⟩
  | ldStVx x => exact .inl ⟨x, .inr (.inr rfl)⟩
  | seVxByte x kk => exact .inr (.of_skipIf (exec_seVxByte x kk s) fun d e => exec_seVxByte x kk (s.withTimers d e))
  | sneVxByte x kk => exact .inr (.of_skipIf (exec_sneVxByte x kk s) fun d e => exec_sneVxByte x kk (s.withTimers d e))
  | seVxVy x y => exact .inr (.of_skipIf (exec_seVxVy x y s) fun d e => exec_seVxVy x y (s.withTimers d e))
  | sneVxVy x y => exact .inr (.of_skipIf (exec_sneVxVy x y s) fun d e => exec_sneVxVy x y (s.withTimers d e))
  | ret =>
    obtain h | h := Nat.eq_zero_or_pos s.SP.val
    · exact .inr (.of_haltEntry fun d e => exec_ret_underflow (s.withTimers d e) h)
    · exact .inr (.of_endCycle (exec_ret s h) fun d e => exec_ret (s.withTimers d e) h)
  | call nnn =>
    obtain h | h := Nat.lt_or_eq_of_le (Nat.le_of_lt_succ s.SP.isLt)
    · exact .inr (.of_endCycle (exec_call nnn s h) fun d e => exec_call nnn (s.withTimers d e) h)
    · exact .inr (.of_haltEntry fun d e => exec_call_overflow nnn (s.withTimers d e) h)
  | skp x =>
    obtain h | h := Nat.lt_or_ge (s.reg x).toNat 16
    · exact .inr (.of_skipIf (exec_skp x s ⟨_, h⟩ rfl) fun d e => exec_skp x (s.withTimers d e) ⟨_, h⟩ rfl)
    · exact .inr (.of_haltEntry fun d e => exec_skp_halt x (s.withTimers d e) h)
  | sknp x =>
    obtain h | h := Nat.lt_or_ge (s.reg x).toNat 16
    · exact .inr (.of_skipIf (exec_sknp x s ⟨_, h⟩ rfl) fun d e => exec_sknp x (s.withTimers d e) ⟨_, h⟩ rfl)
    · exact .inr (.of_haltEntry fun d e => exec_sknp_halt x (s.withTimers d e) h)
  | ldFVx x =>
    obtain h | h := Nat.lt_or_ge (s.reg x).toNat 16
    · exact .inr (.of_endCycle (exec_ldFVx x s ⟨_, h⟩ rfl) fun d e => exec_ldFVx x (s.withTimers d e) ⟨_, h⟩ rfl)
    · exact .inr (.of_haltEntry fun d e => exec_ldFVx_halt x (s.withTimers d e) h)
  | ldVxK x =>
    cases h : lowestKey s with
    | some k => exact .inr (.of_endCycle (exec_ldVxK x s k h) fun d e => exec_ldVxK x (s.withTimers d e) k h)
    | none => exact .inr (.of_endCycle (exec_ldVxK_waits x s h) fun d e => exec_ldVxK_waits x (s.withTimers d e) h)
  | _ => exact .inr (.of_endCycle rfl fun _ _ => rfl)

/-- Where the timers are ignored, the answer's own timers are the old ones counted down, or kept by a halt; and that is
what any other timers become. -/
theorem IgnoresTimers.exec_eq {i : Instr} {s : State} (h : IgnoresTimers i s) :
    ∃ t f, (f = countdown ∨ f = id ∧ t.halted = true) ∧ t.DT = f s.DT ∧ t.ST = f s.ST ∧ exec i s = .next t ∧
      ∀ d e, exec i (s.withTimers d e) = .next (t.withTimers (f d) (f e)) := by
  obtain ⟨t, f, hf, hx⟩ := h
  exact ⟨t.withTimers (f s.DT) (f s.ST), f, hf, rfl, rfl, hx s.DT s.ST, hx⟩

/-- A completed cycle counts both timers down when its instruction ignores them (R134, R247). -/
theorem IgnoresTimers.countdown_of_completed {i : Instr} {s t : State} (h : IgnoresTimers i s)
    (hx : exec i s = .next t) (ht : t.halted = false) : t.DT = countdown s.DT ∧ t.ST = countdown s.ST := by
  obtain ⟨u, f, hf, hd, he, hu, -⟩ := h.exec_eq
  obtain rfl : u = t := by simpa [hu] using hx
  obtain rfl | ⟨-, hh⟩ := hf
  · exact ⟨hd, he⟩
  · exact absurd hh (by simp [ht])

/-- A completed cycle of any instruction but LD DT, Vx counts the delay timer down. -/
theorem exec_DT {i : Instr} {s t : State} (hx : exec i s = .next t) (ht : t.halted = false)
    (hi : ∀ x, i ≠ .ldDtVx x) : t.DT = countdown s.DT := by
  obtain ⟨x, rfl | rfl | rfl⟩ | h := exec_ignoresTimers i s
  · cases hx; rfl
  · exact absurd rfl (hi x)
  · cases hx; rfl
  · exact (h.countdown_of_completed hx ht).1

/-- A completed cycle of any instruction but LD ST, Vx counts the sound timer down. -/
theorem exec_ST {i : Instr} {s t : State} (hx : exec i s = .next t) (ht : t.halted = false)
    (hi : ∀ x, i ≠ .ldStVx x) : t.ST = countdown s.ST := by
  obtain ⟨x, rfl | rfl | rfl⟩ | h := exec_ignoresTimers i s
  · cases hx; rfl
  · cases hx; rfl
  · exact absurd rfl (hi x)
  · exact (h.countdown_of_completed hx ht).2

/-- R39: no instruction reads the sound timer. -/
theorem exec_ST_noninterference (i : Instr) (s : State) (v : Byte) :
    ∃ t u, exec i s = .next t ∧ exec i { s with ST := v } = .next u ∧ u = { t with ST := u.ST } := by
  obtain ⟨x, rfl | rfl | rfl⟩ | h := exec_ignoresTimers i s
  · exact ⟨_, _, exec_ldVxDt x _, exec_ldVxDt x _, rfl⟩
  · exact ⟨_, _, exec_ldDtVx x _, exec_ldDtVx x _, rfl⟩
  · exact ⟨_, _, exec_ldStVx x _, exec_ldStVx x _, rfl⟩
  · obtain ⟨t, f, -, hd, -, ht, hu⟩ := h.exec_eq
    exact ⟨t, _, ht, hu s.DT v, by rw [← hd]; rfl⟩

/-- R38: no instruction but LD Vx, DT reads the delay timer. -/
theorem exec_DT_noninterference (i : Instr) (s : State) (v : Byte) (hi : ∀ x, i ≠ .ldVxDt x) :
    ∃ t u, exec i s = .next t ∧ exec i { s with DT := v } = .next u ∧ u = { t with DT := u.DT } := by
  obtain ⟨x, rfl | rfl | rfl⟩ | h := exec_ignoresTimers i s
  · exact absurd rfl (hi x)
  · exact ⟨_, _, exec_ldDtVx x _, exec_ldDtVx x _, rfl⟩
  · exact ⟨_, _, exec_ldStVx x _, exec_ldStVx x _, rfl⟩
  · obtain ⟨t, f, -, -, he, ht, hu⟩ := h.exec_eq
    exact ⟨t, _, ht, hu v s.ST, by rw [← he]; rfl⟩

/-- Settles O27: noninterference and the countdown come from `exec_ignoresTimers`, the write from the equation of
LD ST, Vx. -/
theorem soundTimerIsReadByNoInstruction : Obligations.SoundTimerIsReadByNoInstruction :=
  ⟨exec_ST_noninterference,
   fun x s => ⟨_, exec_ldStVx x s, countdown_toNat (s.reg x)⟩,
   fun _ s _ _ hx ht hi => exec_ST hx ht hi ▸ countdown_toNat s.ST,
   fun _ => rfl⟩

/-- Settles O28: noninterference and the countdown come from `exec_ignoresTimers`, the read and the write from the
equations of LD Vx, DT and LD DT, Vx. -/
theorem delayTimerIsReadByOneInstruction : Obligations.DelayTimerIsReadByOneInstruction :=
  ⟨exec_DT_noninterference,
   fun x s => ⟨_, exec_ldVxDt x s, reg_setReg_same (advance s) x s.DT⟩,
   fun x s => ⟨_, exec_ldDtVx x s, countdown_toNat (s.reg x)⟩,
   fun _ s _ _ hx ht hi => exec_DT hx ht hi ▸ countdown_toNat s.DT⟩

end Sys2Proof.Machine
end

section
/-! PROOF. The fields of the instruction word as masks and shifts (spec/30_encoding.md R101; O1). Every field of the
model is an `extractLsb'`; one lemma turns any such extraction into the mask and shift, given that the mask shifted down
is all ones over the field's width. -/

namespace Sys2Proof

/-- The extraction of `len` bits from position `lo` is the mask and shift, for a mask whose bits from `lo` upwards are
exactly the field's. -/
theorem extract_toNat_eq_mask_shift (w mask : Word) {lo len : Nat} (hm : mask.toNat >>> lo = 2 ^ len - 1) :
    (w.extractLsb' lo len).toNat = ((w &&& mask) >>> lo).toNat := by
  rw [extract_toNat, BitVec.toNat_ushiftRight, BitVec.toNat_and, Nat.shiftRight_and_distrib, hm,
    Nat.and_two_pow_sub_one_eq_mod, Nat.shiftRight_eq_div_pow]

/-- A field at the bottom of the word is its mask alone. -/
theorem extract_toNat_eq_mask (w mask : Word) {len : Nat} (hm : mask.toNat = 2 ^ len - 1) :
    (w.extractLsb' 0 len).toNat = (w &&& mask).toNat :=
  extract_toNat_eq_mask_shift w mask (lo := 0) hm

/-- Settles O1: each field is one extraction, and its mask of R101 covers exactly that field. -/
theorem fieldsAreMasksOfTheWord : Obligations.FieldsAreMasksOfTheWord := fun w =>
  ⟨extract_toNat_eq_mask w 0x0FFF rfl, extract_toNat_eq_mask w 0x00FF rfl, extract_toNat_eq_mask_shift w 0x0F00 rfl,
   extract_toNat_eq_mask_shift w 0x00F0 rfl, extract_toNat_eq_mask_shift w 0xF000 rfl,
   extract_toNat_eq_mask w 0x000F rfl⟩

end Sys2Proof
end

section
/-! PROOF. What every cycle does and what a no-op word does (spec/40_cycle_dispatch.md rules R134 and R136; O15 and O39).
The countdown is `exec_DT` and `exec_ST` of the timers' part above, the written timer the equation of its instruction. A
no-op word falls through its table to the no-op row, and every no-op row is the same bare cycle. -/

namespace Sys2Proof

/-! ### The no-op rows of the dispatch tables -/

/-- A word outside the rows of table T0 is SYS (R107). -/
theorem decodeWord_sys {w : Word} (hop : opField w = 0x0) (h0 : nField w ≠ 0x0) (hE : nField w ≠ 0xE) :
    decodeWord w = .sys (nnnField w) := by
  have ht : decodeWord w = decodeT0 w := by simp [decodeWord, hop]
  rw [ht, decodeT0]
  split
  · next h => exact absurd (Fin.ext h) h0
  · next h => exact absurd (Fin.ext h) hE
  · rfl

/-- A low nibble that table T8 gives no instruction selects its no-op row (R108). -/
theorem decodeWord_nopT8 {w : Word} (hop : opField w = 0x8)
    (hn : nField w ∈ ([0x8, 0x9, 0xA, 0xB, 0xC, 0xD, 0xF] : List Nibble)) :
    decodeWord w = .nopT8 (xField w) (yField w) (nField w) := by
  have ht : decodeWord w = decodeT8 w := by simp [decodeWord, hop]
  simp only [List.mem_cons, List.not_mem_nil, or_false] at hn
  rw [ht, decodeT8]
  obtain h | h | h | h | h | h | h := hn <;> (rw [h]; rfl)

/-- A word outside the rows of table TE selects its no-op row (R109). -/
theorem decodeWord_nopTe {w : Word} (hop : opField w = 0xE) (h1 : nField w ≠ 0x1) (hE : nField w ≠ 0xE) :
    decodeWord w = .nopTe (xField w) (yField w) (nField w) := by
  have ht : decodeWord w = decodeTe w := by simp [decodeWord, hop]
  rw [ht, decodeTe]
  split
  · next h => exact absurd (Fin.ext h) hE
  · next h => exact absurd (Fin.ext h) h1
  · rfl

/-- A low byte that table TF gives no instruction selects its no-op row (R110). -/
theorem decodeWord_nopTf {w : Word} (hop : opField w = 0xF) (hk : kkField w ∉ tfSelectors) :
    decodeWord w = .nopTf (xField w) (kkField w) := by
  have ht : decodeWord w = decodeTf w := by simp [decodeWord, hop]
  have hsel {b : Nat} (hb : BitVec.ofNat 8 b ∈ tfSelectors) : (kkField w).toNat ≠ b :=
    fun h => hk (by simpa [← h] using hb)
  rw [ht, decodeTf]
  split
  case h_10 => rfl
  all_goals next h => exact absurd h (hsel (by decide))

end Sys2Proof

namespace Sys2Proof.Machine

/-! ### How a completed cycle closes -/

/-- A handler that leaves the timers, the inputs and the halt status alone closes its cycle at the `pc` it left. -/
theorem closesCycle_endCycle {s u : State} (hd : u.DT = s.DT) (hs : u.ST = s.ST) (hk : KeepsInputsAndStatus s u) :
    ClosesCycle s (endCycle false u) u.pc :=
  ⟨rfl, rfl, ⟨hd ▸ countdown_toNat u.DT, hs ▸ countdown_toNat u.ST⟩, hk⟩

/-- The bare cycle, which only advances and ticks, keeps everything a register frame speaks of. -/
theorem registerFrame_endCycle_advance (s : State) : RegisterFrame [] s (endCycle false (advance s)) :=
  ⟨fun _ _ => rfl, rfl, ⟨rfl, rfl⟩, fun _ => rfl, fun _ _ => rfl, rfl⟩

/-- The bare cycle leaves `pc` at the next word. -/
theorem closesCycle_endCycle_advance (s : State) : ClosesCycle s (endCycle false (advance s)) (s.pc + 2) :=
  closesCycle_endCycle rfl rfl ⟨rfl, rfl, rfl, rfl⟩

/-- The four no-op instructions are one bare cycle, whatever their operands (R136). -/
theorem exec_noop {i : Instr} (s : State)
    (hi : (∃ nnn, i = .sys nnn) ∨ (∃ x y n, i = .nopT8 x y n) ∨ (∃ x m n, i = .nopTe x m n) ∨ ∃ x kk, i = .nopTf x kk) :
    exec i s = .next (endCycle false (advance s)) := by
  obtain ⟨nnn, rfl⟩ | ⟨x, y, n, rfl⟩ | ⟨x, m, n, rfl⟩ | ⟨x, kk, rfl⟩ := hi
  · exact exec_sys nnn s
  · exact exec_nopT8 x y n s
  · exact exec_nopTe x m n s
  · exact exec_nopTf x kk s

/-- LD DT, Vx leaves the delay timer at the value just written, counted down (R134). -/
theorem exec_ldDtVx_DT {x : Reg} {s t : State} (hx : exec (.ldDtVx x) s = .next t) : t.DT = countdown (s.reg x) := by
  cases hx; rfl

/-- LD ST, Vx leaves the sound timer at the value just written, counted down (R134). -/
theorem exec_ldStVx_ST {x : Reg} {s t : State} (hx : exec (.ldStVx x) s = .next t) : t.ST = countdown (s.reg x) := by
  cases hx; rfl

/-- Settles O15: a timer its instruction does not write is counted down by `exec_DT` and `exec_ST`; the written one is
counted down from the value written. -/
theorem timersTickOncePerCompletedCycle : Obligations.TimersTickOncePerCompletedCycle := fun _ s _ _ hx ht =>
  ⟨fun hi => exec_DT hx ht hi ▸ countdown_toNat s.DT,
   fun x hi => exec_ldDtVx_DT (hi ▸ hx) ▸ countdown_toNat (s.reg x),
   fun hi => exec_ST hx ht hi ▸ countdown_toNat s.ST,
   fun x hi => exec_ldStVx_ST (hi ▸ hx) ▸ countdown_toNat (s.reg x)⟩

/-- Settles O39: the no-op words fall through their tables, and each no-op instruction is the bare cycle. -/
theorem noOpsOnlyAdvance : Obligations.NoOpsOnlyAdvance :=
  ⟨fun _ => decodeWord_sys, fun _ => decodeWord_nopT8, fun _ => decodeWord_nopTe, fun _ => decodeWord_nopTf,
   fun _ s hi => ⟨_, exec_noop s hi, registerFrame_endCycle_advance s, closesCycle_endCycle_advance s⟩⟩

end Sys2Proof.Machine
end

section
/-! PROOF. Jumps and skips (spec/41_control_flow.md rules R154, R156 and R157; O32 and O36). A jump and a skip write
`pc` alone, so one frame serves both: the cycle that leaves `pc` at some address. -/

namespace Sys2Proof

/-- Leading nibble 1 selects JP (R106). -/
theorem decodeWord_jp {w : Word} (hop : opField w = 0x1) : decodeWord w = .jp (nnnField w) := by
  simp [decodeWord, hop]

/-- Leading nibble 3 selects SE Vx, byte (R106). -/
theorem decodeWord_seVxByte {w : Word} (hop : opField w = 0x3) :
    decodeWord w = .seVxByte (xField w) (kkField w) := by
  simp [decodeWord, hop]

/-- Leading nibble 4 selects SNE Vx, byte (R106). -/
theorem decodeWord_sneVxByte {w : Word} (hop : opField w = 0x4) :
    decodeWord w = .sneVxByte (xField w) (kkField w) := by
  simp [decodeWord, hop]

end Sys2Proof

namespace Sys2Proof.Machine

/-! ### Cycles that write `pc` alone -/

/-- Widening an address keeps its number. -/
theorem zextAddr_toNat (nnn : Addr12) : (zextAddr nnn).toNat = nnn.toNat :=
  BitVec.toNat_setWidth_of_le (by decide)

/-- A cycle whose handler writes `pc` alone keeps everything a register frame speaks of. -/
theorem registerFrame_endCycle_setPc (s : State) (v : Word) :
    RegisterFrame [] s (endCycle false ((advance s).setPc v)) :=
  registerFrame_endCycle_advance s

/-- A cycle whose handler writes `pc` alone leaves it at the address written. -/
theorem closesCycle_endCycle_setPc (s : State) (v : Word) :
    ClosesCycle s (endCycle false ((advance s).setPc v)) v :=
  closesCycle_endCycle (u := (advance s).setPc v) rfl rfl ⟨rfl, rfl, rfl, rfl⟩

/-- A skip on top of the advance passes over one more word (R150). -/
theorem skipIf_advance (c : Bool) (s : State) :
    skipIf c (advance s) = (advance s).setPc (if c then s.pc + 4 else s.pc + 2) := by
  cases c with
  | false => rfl
  | true => exact congrArg s.setPc (BitVec.add_assoc s.pc 2 2)

/-- An instruction that only skips, under the condition `c`, moves `pc` by two words or by one and keeps the rest. -/
theorem exec_skipIf_frame {i : Instr} {s : State} {c : Bool}
    (hx : exec i s = .next (endCycle false (skipIf c (advance s)))) :
    ∃ t, exec i s = .next t ∧ RegisterFrame [] s t ∧ ClosesCycle s t (if c then s.pc + 4 else s.pc + 2) :=
  ⟨_, skipIf_advance c s ▸ hx, registerFrame_endCycle_setPc s _, closesCycle_endCycle_setPc s _⟩

/-- Settles O32: JP is the cycle that writes the widened `nnn` to `pc`. -/
theorem jumpSetsPc : Obligations.JumpSetsPc :=
  ⟨fun _ => decodeWord_jp,
   fun nnn s => ⟨_, exec_jp nnn s, zextAddr_toNat nnn, registerFrame_endCycle_setPc s _, closesCycle_endCycle_setPc s _⟩⟩

/-- Settles O36: both instructions only skip, and bytes are equal exactly when their numbers are. -/
theorem skipsOnByteComparison : Obligations.SkipsOnByteComparison := by
  refine ⟨fun _ => decodeWord_seVxByte, fun _ => decodeWord_sneVxByte, fun x kk s => ⟨?_, ?_⟩⟩
  · simpa [BitVec.toNat_inj] using exec_skipIf_frame (exec_seVxByte x kk s)
  · simpa [BitVec.toNat_inj] using exec_skipIf_frame (exec_sneVxByte x kk s)

end Sys2Proof.Machine
end

section
/-! PROOF. The register loads and ADD Vx, Vy (spec/42_alu.md rules R171, R173 and R177; O40 and O43). A load is the cycle
that writes one register; ADD is the cycle that writes the flag and then the result. Each of the two cycles has its
values and its frame said once, for whatever is written. -/

namespace Sys2Proof

/-- Leading nibble 6 selects LD Vx, byte (R106). -/
theorem decodeWord_ldVxByte {w : Word} (hop : opField w = 0x6) :
    decodeWord w = .ldVxByte (xField w) (kkField w) := by
  simp [decodeWord, hop]

/-- Leading nibble 8 selects table T8 (R106). -/
theorem decodeWord_eq_decodeT8 {w : Word} (hop : opField w = 0x8) : decodeWord w = decodeT8 w := by
  simp [decodeWord, hop]

/-- Row 0 of table T8 is LD Vx, Vy (R108). -/
theorem decodeWord_ldVxVy {w : Word} (hop : opField w = 0x8) (hn : nField w = 0x0) :
    decodeWord w = .ldVxVy (xField w) (yField w) := by
  simp [decodeWord_eq_decodeT8 hop, decodeT8, hn]

/-- Row 4 of table T8 is ADD Vx, Vy (R108). -/
theorem decodeWord_addVxVy {w : Word} (hop : opField w = 0x8) (hn : nField w = 0x4) :
    decodeWord w = .addVxVy (xField w) (yField w) := by
  simp [decodeWord_eq_decodeT8 hop, decodeT8, hn]

end Sys2Proof

namespace Sys2Proof.Machine

/-! ### Cycles that write registers alone -/

/-- A handler whose answer differs from the advanced state in its register file alone, and there at most in `l`, ends
its cycle within the register frame of `l`, at the next word. -/
theorem endCycle_advance_frame {l : List Reg} {s u : State} (hu : u = { advance s with V := u.V })
    (hl : KeepsRegsBut l s u) :
    RegisterFrame l s (endCycle false u) ∧ ClosesCycle s (endCycle false u) (s.pc + 2) := by
  obtain ⟨-, hI, hstack, hmem, hscreen, hrng⟩ := registerFrame_endCycle_advance s
  rw [hu] at hl ⊢
  exact ⟨⟨hl, hI, hstack, hmem, hscreen, hrng⟩, closesCycle_endCycle_advance s⟩

/-- An instruction that only writes `v` to `Vx` leaves it there and keeps the rest. -/
theorem exec_setReg_frame {i : Instr} {s : State} {x : Reg} {v : Byte}
    (hx : exec i s = .next (endCycle false ((advance s).setReg x v))) :
    ∃ t, exec i s = .next t ∧ t.reg x = v ∧ RegisterFrame [x] s t ∧ ClosesCycle s t (s.pc + 2) := by
  refine ⟨_, hx, reg_setReg_same (advance s) x v, endCycle_advance_frame rfl fun r hr => ?_⟩
  simp only [List.mem_singleton] at hr
  simp [reg_setReg, hr]

/-- An instruction that only writes a flag and then a result leaves the result in `Vx`, the flag in VF where that is
another register, and keeps the rest (R170). -/
theorem exec_writeFlagThenResult_frame {i : Instr} {s : State} {x : Reg} {f v : Byte}
    (hx : exec i s = .next (endCycle false (writeFlagThenResult x f v (advance s)))) :
    ∃ t, exec i s = .next t ∧ t.reg x = v ∧ (x ≠ VF → t.reg VF = f) ∧ RegisterFrame [x, VF] s t ∧
      ClosesCycle s t (s.pc + 2) := by
  refine ⟨_, hx, ?_, fun hVF => ?_, endCycle_advance_frame rfl fun r hr => ?_⟩
  · simp [reg_writeFlagThenResult]
  · simp [reg_writeFlagThenResult, hVF.symm]
  · simp only [List.mem_cons, List.not_mem_nil, or_false, not_or] at hr
    simp [reg_writeFlagThenResult, hr]

/-- The carry flag as a number: 1 exactly when the sum exceeds 255. -/
theorem carryFlag_toNat (a b : Byte) : (carryFlag a b).toNat = if 255 < a.toNat + b.toNat then 1 else 0 := by
  unfold carryFlag
  split
  · next h => simp [h]
  · next h => simp [h]

/-- Settles O40: both loads are the cycle that writes one register. -/
theorem loadsWriteTheDestination : Obligations.LoadsWriteTheDestination :=
  ⟨fun _ => decodeWord_ldVxByte, fun _ => decodeWord_ldVxVy,
   fun x y kk s => ⟨exec_setReg_frame (exec_ldVxByte x kk s), exec_setReg_frame (exec_ldVxVy x y s)⟩⟩

/-- Settles O43: ADD is the cycle that writes the carry and then the sum, which for x = 15 overwrites it. -/
theorem addSetsCarry : Obligations.AddSetsCarry := by
  refine ⟨fun _ => decodeWord_addVxVy, fun x y s => ?_⟩
  obtain ⟨t, ht, hsum, hcarry, hframe, hclose⟩ := exec_writeFlagThenResult_frame (exec_addVxVy x y s)
  exact ⟨t, ht, hsum ▸ BitVec.toNat_add (s.reg x) (s.reg y), fun hVF => hcarry hVF ▸ carryFlag_toNat (s.reg x) (s.reg y),
    hframe, hclose⟩

end Sys2Proof.Machine
end

section
/-! PROOF. The index register and memory instructions (spec/43_index_memory.md rules R200, R201 and R203 to R205; O47
and O49 to O51). All of them write at most registers, `I` and memory, so one lemma says what they keep; the block store
is `memWriteBytes`, whose bytes and frame are laws of memory, and what is left is the data of each block. -/

namespace Sys2Proof

/-- Leading nibble A selects LD I, addr (R106). -/
theorem decodeWord_ldIAddr {w : Word} (hop : opField w = 0xA) : decodeWord w = .ldIAddr (nnnField w) := by
  simp [decodeWord, hop]

/-- Leading nibble F selects table TF (R106). -/
theorem decodeWord_eq_decodeTf {w : Word} (hop : opField w = 0xF) : decodeWord w = decodeTf w := by
  simp [decodeWord, hop]

/-- Row 1E of table TF is ADD I, Vx (R110). -/
theorem decodeWord_addIVx {w : Word} (hop : opField w = 0xF) (hk : kkField w = 0x1E) :
    decodeWord w = .addIVx (xField w) := by
  simp [decodeWord_eq_decodeTf hop, decodeTf, hk]

/-- Row 33 of table TF is LD B, Vx (R110). -/
theorem decodeWord_ldBVx {w : Word} (hop : opField w = 0xF) (hk : kkField w = 0x33) :
    decodeWord w = .ldBVx (xField w) := by
  simp [decodeWord_eq_decodeTf hop, decodeTf, hk]

/-- Row 55 of table TF is LD [I], Vx (R110). -/
theorem decodeWord_ldMiVx {w : Word} (hop : opField w = 0xF) (hk : kkField w = 0x55) :
    decodeWord w = .ldMiVx (xField w) := by
  simp [decodeWord_eq_decodeTf hop, decodeTf, hk]

/-- Row 65 of table TF is LD Vx, [I] (R110). -/
theorem decodeWord_ldVxMi {w : Word} (hop : opField w = 0xF) (hk : kkField w = 0x65) :
    decodeWord w = .ldVxMi (xField w) := by
  simp [decodeWord_eq_decodeTf hop, decodeTf, hk]

end Sys2Proof

namespace Sys2Proof.Machine

/-! ### Cycles that write registers, `I` and memory -/

/-- A handler whose answer differs from the advanced state in registers, `I` and memory alone keeps the rest and closes
its cycle at the next word. -/
theorem endCycle_dataAccess_frame {s u : State} (hu : u = { advance s with V := u.V, I := u.I, mem := u.mem }) :
    KeepsStack s (endCycle false u) ∧ KeepsScreen s (endCycle false u) ∧ KeepsRng s (endCycle false u) ∧
      ClosesCycle s (endCycle false u) (s.pc + 2) := by
  obtain ⟨-, -, hstack, -, hscreen, hrng⟩ := registerFrame_endCycle_advance s
  rw [hu]
  exact ⟨hstack, hscreen, hrng, closesCycle_endCycle_advance s⟩

/-- An instruction that only writes `v` to `I` leaves it there and keeps the rest. -/
theorem exec_setI_frame {i : Instr} {s : State} {v : Word}
    (hx : exec i s = .next (endCycle false ((advance s).setI v))) :
    ∃ t, exec i s = .next t ∧ t.I = v ∧ KeepsRegsBut [] s t ∧ KeepsStack s t ∧ KeepsMemory s t ∧ KeepsScreen s t ∧
      KeepsRng s t ∧ ClosesCycle s t (s.pc + 2) := by
  obtain ⟨hstack, hscreen, hrng, hclose⟩ := endCycle_dataAccess_frame (s := s) (u := (advance s).setI v) rfl
  exact ⟨_, hx, rfl, fun _ _ => rfl, hstack, fun _ => rfl, hscreen, hrng, hclose⟩

/-- A sum of `I` and a zero-extended register is taken modulo 2^16 (R201). -/
theorem add_zextByte_toNat (i : Word) (b : Byte) : (i + zextByte b).toNat = (i.toNat + b.toNat) % 65536 := by
  have hb : (zextByte b).toNat = b.toNat := BitVec.toNat_setWidth_of_le (by decide)
  rw [BitVec.toNat_add, hb]

/-! ### Block stores -/

/-- An instruction that stores the bytes `vs` from `I`, no more than memory holds, and then sets `I` to `v`: each byte
reads back at its masked address, every byte outside the block is kept, and so is the rest of the state. -/
theorem exec_storeBlock_frame {i : Instr} {s : State} {vs : List Byte} {v : Word} (hlen : vs.length ≤ memSize)
    (hx : exec i s = .next (endCycle false ((memWriteBytes (advance s) s.I.toNat vs).setI v))) :
    ∃ t, exec i s = .next t ∧ (∀ k (hk : k < vs.length), memRead t (s.I.toNat + k) = vs[k]) ∧
      KeepsMemoryBut s.I.toNat vs.length s t ∧ t.I = v ∧ KeepsRegsBut [] s t ∧ KeepsStack s t ∧ KeepsScreen s t ∧
      KeepsRng s t ∧ ClosesCycle s t (s.pc + 2) := by
  obtain ⟨hstack, hscreen, hrng, hclose⟩ :=
    endCycle_dataAccess_frame (s := s) (u := (memWriteBytes (advance s) s.I.toNat vs).setI v) rfl
  exact ⟨_, hx, fun k hk => memRead_memWriteBytes_inside (advance s) s.I.toNat vs k hk hlen,
    fun a ha => memRead_memWriteBytes_outside (advance s) s.I.toNat a vs ha, rfl, fun _ _ => rfl, hstack, hscreen, hrng,
    hclose⟩

/-! ### The data of the blocks -/

/-- The decimal digits as numbers, hundreds first: none is cut off by the byte it is stored in (R203). -/
theorem bcdDigits_map_toNat (v : Byte) :
    (bcdDigits v).map BitVec.toNat = [v.toNat / 100, v.toNat / 10 % 10, v.toNat % 10] := by
  have hv := v.isLt
  have hfit : v.toNat / 100 < 256 ∧ v.toNat / 10 % 10 < 256 ∧ v.toNat % 10 < 256 := by omega
  simpa [bcdDigits] using hfit

@[simp] theorem length_regsUpTo (x : Reg) (s : State) : (regsUpTo x s).length = x.val + 1 := by
  simp [regsUpTo]

@[simp] theorem getElem_regsUpTo (x : Reg) (s : State) (k : Nat) (hk : k < (regsUpTo x s).length) :
    (regsUpTo x s)[k] = s.reg ⟨k, by have := length_regsUpTo x s; omega⟩ := by
  simp [regsUpTo, State.reg]

/-- Under KEEP_I a block transfer leaves `I` as it was (R204, R205). -/
theorem indexAfterBlock_keepI {x : Reg} {s : State} (h : s.cfg.ldst = .keepI) : indexAfterBlock x s = s.I := by
  simp [indexAfterBlock, h]

/-- Under ADVANCE_I a block transfer moves `I` past the registers copied, modulo 2^16 (R204, R205). -/
theorem indexAfterBlock_advanceI_toNat {x : Reg} {s : State} (h : s.cfg.ldst = .advanceI) :
    (indexAfterBlock x s).toNat = (s.I.toNat + x.val + 1) % 65536 := by
  simp [indexAfterBlock, h, Nat.add_assoc]

/-! ### The obligations -/

/-- Settles O47: both instructions only write `I`, the one the widened `nnn` and the other the 16-bit sum. -/
theorem indexLoadsAndAdds : Obligations.IndexLoadsAndAdds := by
  refine ⟨fun _ => decodeWord_ldIAddr, fun _ => decodeWord_addIVx, fun nnn x s => ⟨?_, ?_⟩⟩
  · obtain ⟨t, ht, hI, hframe⟩ := exec_setI_frame (exec_ldIAddr nnn s)
    exact ⟨t, ht, hI ▸ zextAddr_toNat nnn, hframe⟩
  · obtain ⟨t, ht, hI, hframe⟩ := exec_setI_frame (exec_addIVx x s)
    exact ⟨t, ht, hI ▸ add_zextByte_toNat s.I (s.reg x), hframe⟩

/-- Settles O49: the block stored is the three digits, and `I` is set to itself. -/
theorem bcdStoresThreeDigits : Obligations.BcdStoresThreeDigits := by
  refine ⟨fun _ => decodeWord_ldBVx, fun x s => ?_⟩
  obtain ⟨t, ht, hbytes, hmem, hI, hregs, hrest⟩ :=
    exec_storeBlock_frame (vs := bcdDigits (s.reg x)) (v := s.I) (by simp [bcdDigits, memSize]) (exec_ldBVx x s)
  have hdigit (k : Nat) (hk : k < 3) : (memRead t (s.I.toNat + k)).toNat =
      [(s.reg x).toNat / 100, (s.reg x).toNat / 10 % 10, (s.reg x).toNat % 10][k] := by
    rw [hbytes k hk]
    simp only [← bcdDigits_map_toNat]
    exact (List.getElem_map BitVec.toNat).symm
  exact ⟨t, ht, hdigit 0 (by decide), hdigit 1 (by decide), hdigit 2 (by decide), hmem, hregs, hI, hrest⟩

/-- Settles O50: the block stored is V0 to Vx, and `I` is set as the variant says. -/
theorem registerDumpStoresUpToX : Obligations.RegisterDumpStoresUpToX := by
  refine ⟨fun _ => decodeWord_ldMiVx, fun x s => ?_⟩
  obtain ⟨t, ht, hbytes, hmem, hI, hframe⟩ := exec_storeBlock_frame (by simp [memSize]; omega) (exec_ldMiVx x s)
  refine ⟨t, ht, fun r hr => ?_, length_regsUpTo x s ▸ hmem, fun h => hI.trans (indexAfterBlock_keepI h),
    fun h => hI ▸ indexAfterBlock_advanceI_toNat h, hframe⟩
  exact (hbytes r.val (by simp; omega)).trans (getElem_regsUpTo x s r.val _)

/-- Settles O51: the registers are those of `loadRegs`, and `I` is set as the variant says. -/
theorem registerLoadReadsUpToX : Obligations.RegisterLoadReadsUpToX := by
  refine ⟨fun _ => decodeWord_ldVxMi, fun x s => ?_⟩
  obtain ⟨hstack, hscreen, hrng, hclose⟩ :=
    endCycle_dataAccess_frame (s := s) (u := (loadRegs x (advance s)).setI (indexAfterBlock x s)) rfl
  refine ⟨_, exec_ldVxMi x s, fun r hr => ?_, fun r hr => ?_, indexAfterBlock_keepI, indexAfterBlock_advanceI_toNat,
    fun _ => rfl, hstack, hscreen, hrng, hclose⟩
  · simp [reg_loadRegs, hr]
  · simp [reg_loadRegs, hr.not_ge]

end Sys2Proof.Machine
end

section
/-! PROOF. Reading the delay timer (spec/45_input_timers.md rule R244; O58). The handler copies `DT` to a register before
the cycle's closing tick, so LD Vx, DT is one more cycle that writes one register. -/

namespace Sys2Proof

/-- Row 07 of table TF is LD Vx, DT (R110). -/
theorem decodeWord_ldVxDt {w : Word} (hop : opField w = 0xF) (hk : kkField w = 0x07) :
    decodeWord w = .ldVxDt (xField w) := by
  simp [decodeWord_eq_decodeTf hop, decodeTf, hk]

end Sys2Proof

namespace Sys2Proof.Machine

/-- Settles O58: LD Vx, DT is the cycle that writes the `DT` of the state before the tick to one register. -/
theorem delayTimerIsReadBeforeTheTick : Obligations.DelayTimerIsReadBeforeTheTick :=
  ⟨fun _ => decodeWord_ldVxDt, fun x s => exec_setReg_frame (exec_ldVxDt x s)⟩

end Sys2Proof.Machine
end

section
/-! PROOF. The dispatch tables and decoding what was encoded (spec/30_encoding.md sections 1 to 3; O3). `Dispatch` is
the five tables R106 to R110 as one relation, a constructor per row; every word stands in the row of the instruction
that the dispatcher selects, so that a claim about every word is a case analysis over the rows. -/

namespace Sys2Proof

/-! ### The rows not spoken of yet -/

/-- Leading nibble 0 selects table T0 (R106). -/
theorem decodeWord_eq_decodeT0 {w : Word} (hop : opField w = 0x0) : decodeWord w = decodeT0 w := by
  simp [decodeWord, hop]

/-- Leading nibble E selects table TE (R106). -/
theorem decodeWord_eq_decodeTe {w : Word} (hop : opField w = 0xE) : decodeWord w = decodeTe w := by
  simp [decodeWord, hop]

/-- Row 0 of table T0 is CLS (R107). -/
theorem decodeWord_cls {w : Word} (hop : opField w = 0x0) (hn : nField w = 0x0) : decodeWord w = .cls := by
  simp [decodeWord_eq_decodeT0 hop, decodeT0, hn]

/-- Row E of table T0 is RET (R107). -/
theorem decodeWord_ret {w : Word} (hop : opField w = 0x0) (hn : nField w = 0xE) : decodeWord w = .ret := by
  simp [decodeWord_eq_decodeT0 hop, decodeT0, hn]

/-- Leading nibble 2 selects CALL (R106). -/
theorem decodeWord_call {w : Word} (hop : opField w = 0x2) : decodeWord w = .call (nnnField w) := by
  simp [decodeWord, hop]

/-- Leading nibble 5 selects SE Vx, Vy (R106). -/
theorem decodeWord_seVxVy {w : Word} (hop : opField w = 0x5) : decodeWord w = .seVxVy (xField w) (yField w) := by
  simp [decodeWord, hop]

/-- Leading nibble 7 selects ADD Vx, byte (R106). -/
theorem decodeWord_addVxByte {w : Word} (hop : opField w = 0x7) :
    decodeWord w = .addVxByte (xField w) (kkField w) := by
  simp [decodeWord, hop]

/-- Row 1 of table T8 is OR (R108). -/
theorem decodeWord_orVxVy {w : Word} (hop : opField w = 0x8) (hn : nField w = 0x1) :
    decodeWord w = .orVxVy (xField w) (yField w) := by
  simp [decodeWord_eq_decodeT8 hop, decodeT8, hn]

/-- Row 2 of table T8 is AND (R108). -/
theorem decodeWord_andVxVy {w : Word} (hop : opField w = 0x8) (hn : nField w = 0x2) :
    decodeWord w = .andVxVy (xField w) (yField w) := by
  simp [decodeWord_eq_decodeT8 hop, decodeT8, hn]

/-- Row 3 of table T8 is XOR (R108). -/
theorem decodeWord_xorVxVy {w : Word} (hop : opField w = 0x8) (hn : nField w = 0x3) :
    decodeWord w = .xorVxVy (xField w) (yField w) := by
  simp [decodeWord_eq_decodeT8 hop, decodeT8, hn]

/-- Row 5 of table T8 is SUB (R108). -/
theorem decodeWord_subVxVy {w : Word} (hop : opField w = 0x8) (hn : nField w = 0x5) :
    decodeWord w = .subVxVy (xField w) (yField w) := by
  simp [decodeWord_eq_decodeT8 hop, decodeT8, hn]

/-- Row 6 of table T8 is SHR (R108). -/
theorem decodeWord_shrVxVy {w : Word} (hop : opField w = 0x8) (hn : nField w = 0x6) :
    decodeWord w = .shrVxVy (xField w) (yField w) := by
  simp [decodeWord_eq_decodeT8 hop, decodeT8, hn]

/-- Row 7 of table T8 is SUBN (R108). -/
theorem decodeWord_subnVxVy {w : Word} (hop : opField w = 0x8) (hn : nField w = 0x7) :
    decodeWord w = .subnVxVy (xField w) (yField w) := by
  simp [decodeWord_eq_decodeT8 hop, decodeT8, hn]

/-- Row E of table T8 is SHL (R108). -/
theorem decodeWord_shlVxVy {w : Word} (hop : opField w = 0x8) (hn : nField w = 0xE) :
    decodeWord w = .shlVxVy (xField w) (yField w) := by
  simp [decodeWord_eq_decodeT8 hop, decodeT8, hn]

/-- Leading nibble 9 selects SNE Vx, Vy (R106). -/
theorem decodeWord_sneVxVy {w : Word} (hop : opField w = 0x9) : decodeWord w = .sneVxVy (xField w) (yField w) := by
  simp [decodeWord, hop]

/-- Leading nibble B selects JP V0, addr (R106). -/
theorem decodeWord_jpV0Addr {w : Word} (hop : opField w = 0xB) : decodeWord w = .jpV0Addr (nnnField w) := by
  simp [decodeWord, hop]

/-- Leading nibble C selects RND (R106). -/
theorem decodeWord_rnd {w : Word} (hop : opField w = 0xC) : decodeWord w = .rnd (xField w) (kkField w) := by
  simp [decodeWord, hop]

/-- Leading nibble D selects DRW (R106). -/
theorem decodeWord_drw {w : Word} (hop : opField w = 0xD) :
    decodeWord w = .drw (xField w) (yField w) (nField w) := by
  simp [decodeWord, hop]

/-- Row E of table TE is SKP (R109). -/
theorem decodeWord_skp {w : Word} (hop : opField w = 0xE) (hn : nField w = 0xE) : decodeWord w = .skp (xField w) := by
  simp [decodeWord_eq_decodeTe hop, decodeTe, hn]

/-- Row 1 of table TE is SKNP (R109). -/
theorem decodeWord_sknp {w : Word} (hop : opField w = 0xE) (hn : nField w = 0x1) :
    decodeWord w = .sknp (xField w) := by
  simp [decodeWord_eq_decodeTe hop, decodeTe, hn]

/-- Row 0A of table TF is LD Vx, K (R110). -/
theorem decodeWord_ldVxK {w : Word} (hop : opField w = 0xF) (hk : kkField w = 0x0A) :
    decodeWord w = .ldVxK (xField w) := by
  simp [decodeWord_eq_decodeTf hop, decodeTf, hk]

/-- Row 15 of table TF is LD DT, Vx (R110). -/
theorem decodeWord_ldDtVx {w : Word} (hop : opField w = 0xF) (hk : kkField w = 0x15) :
    decodeWord w = .ldDtVx (xField w) := by
  simp [decodeWord_eq_decodeTf hop, decodeTf, hk]

/-- Row 18 of table TF is LD ST, Vx (R110). -/
theorem decodeWord_ldStVx {w : Word} (hop : opField w = 0xF) (hk : kkField w = 0x18) :
    decodeWord w = .ldStVx (xField w) := by
  simp [decodeWord_eq_decodeTf hop, decodeTf, hk]

/-- Row 29 of table TF is LD F, Vx (R110). -/
theorem decodeWord_ldFVx {w : Word} (hop : opField w = 0xF) (hk : kkField w = 0x29) :
    decodeWord w = .ldFVx (xField w) := by
  simp [decodeWord_eq_decodeTf hop, decodeTf, hk]

/-! ### The tables as one relation -/

/-- The word stands in the row of the instruction: tables R106 to R110, a constructor per row. -/
inductive Dispatch (w : Word) : Instr → Prop
  | cls (hop : opField w = 0x0) (hn : nField w = 0x0) : Dispatch w .cls
  | ret (hop : opField w = 0x0) (hn : nField w = 0xE) : Dispatch w .ret
  | sys (hop : opField w = 0x0) (h0 : nField w ≠ 0x0) (hE : nField w ≠ 0xE) : Dispatch w (.sys (nnnField w))
  | jp (hop : opField w = 0x1) : Dispatch w (.jp (nnnField w))
  | call (hop : opField w = 0x2) : Dispatch w (.call (nnnField w))
  | seVxByte (hop : opField w = 0x3) : Dispatch w (.seVxByte (xField w) (kkField w))
  | sneVxByte (hop : opField w = 0x4) : Dispatch w (.sneVxByte (xField w) (kkField w))
  | seVxVy (hop : opField w = 0x5) : Dispatch w (.seVxVy (xField w) (yField w))
  | ldVxByte (hop : opField w = 0x6) : Dispatch w (.ldVxByte (xField w) (kkField w))
  | addVxByte (hop : opField w = 0x7) : Dispatch w (.addVxByte (xField w) (kkField w))
  | ldVxVy (hop : opField w = 0x8) (hn : nField w = 0x0) : Dispatch w (.ldVxVy (xField w) (yField w))
  | orVxVy (hop : opField w = 0x8) (hn : nField w = 0x1) : Dispatch w (.orVxVy (xField w) (yField w))
  | andVxVy (hop : opField w = 0x8) (hn : nField w = 0x2) : Dispatch w (.andVxVy (xField w) (yField w))
  | xorVxVy (hop : opField w = 0x8) (hn : nField w = 0x3) : Dispatch w (.xorVxVy (xField w) (yField w))
  | addVxVy (hop : opField w = 0x8) (hn : nField w = 0x4) : Dispatch w (.addVxVy (xField w) (yField w))
  | subVxVy (hop : opField w = 0x8) (hn : nField w = 0x5) : Dispatch w (.subVxVy (xField w) (yField w))
  | shrVxVy (hop : opField w = 0x8) (hn : nField w = 0x6) : Dispatch w (.shrVxVy (xField w) (yField w))
  | subnVxVy (hop : opField w = 0x8) (hn : nField w = 0x7) : Dispatch w (.subnVxVy (xField w) (yField w))
  | shlVxVy (hop : opField w = 0x8) (hn : nField w = 0xE) : Dispatch w (.shlVxVy (xField w) (yField w))
  | sneVxVy (hop : opField w = 0x9) : Dispatch w (.sneVxVy (xField w) (yField w))
  | ldIAddr (hop : opField w = 0xA) : Dispatch w (.ldIAddr (nnnField w))
  | jpV0Addr (hop : opField w = 0xB) : Dispatch w (.jpV0Addr (nnnField w))
  | rnd (hop : opField w = 0xC) : Dispatch w (.rnd (xField w) (kkField w))
  | drw (hop : opField w = 0xD) : Dispatch w (.drw (xField w) (yField w) (nField w))
  | skp (hop : opField w = 0xE) (hn : nField w = 0xE) : Dispatch w (.skp (xField w))
  | sknp (hop : opField w = 0xE) (hn : nField w = 0x1) : Dispatch w (.sknp (xField w))
  | ldVxDt (hop : opField w = 0xF) (hk : kkField w = 0x07) : Dispatch w (.ldVxDt (xField w))
  | ldVxK (hop : opField w = 0xF) (hk : kkField w = 0x0A) : Dispatch w (.ldVxK (xField w))
  | ldDtVx (hop : opField w = 0xF) (hk : kkField w = 0x15) : Dispatch w (.ldDtVx (xField w))
  | ldStVx (hop : opField w = 0xF) (hk : kkField w = 0x18) : Dispatch w (.ldStVx (xField w))
  | addIVx (hop : opField w = 0xF) (hk : kkField w = 0x1E) : Dispatch w (.addIVx (xField w))
  | ldFVx (hop : opField w = 0xF) (hk : kkField w = 0x29) : Dispatch w (.ldFVx (xField w))
  | ldBVx (hop : opField w = 0xF) (hk : kkField w = 0x33) : Dispatch w (.ldBVx (xField w))
  | ldMiVx (hop : opField w = 0xF) (hk : kkField w = 0x55) : Dispatch w (.ldMiVx (xField w))
  | ldVxMi (hop : opField w = 0xF) (hk : kkField w = 0x65) : Dispatch w (.ldVxMi (xField w))
  | nopT8 (hop : opField w = 0x8) (hn : nField w ∉ t8Selectors) : Dispatch w (.nopT8 (xField w) (yField w) (nField w))
  | nopTe (hop : opField w = 0xE) (h1 : nField w ≠ 0x1) (hE : nField w ≠ 0xE) :
      Dispatch w (.nopTe (xField w) (yField w) (nField w))
  | nopTf (hop : opField w = 0xF) (hk : kkField w ∉ tfSelectors) : Dispatch w (.nopTf (xField w) (kkField w))

/-- The low nibbles that table T8 gives no instruction, as R111 lists them. -/
theorem notMem_t8Selectors_iff (n : Nibble) :
    n ∉ t8Selectors ↔ n ∈ ([0x8, 0x9, 0xA, 0xB, 0xC, 0xD, 0xF] : List Nibble) := by
  revert n
  decide

/-- Table T0 selects the row a word of its leading nibble stands in. -/
theorem dispatch_decodeT0 {w : Word} (hop : opField w = 0x0) : Dispatch w (decodeT0 w) := by
  unfold decodeT0
  split
  · next h => exact .cls hop (Fin.ext h)
  · next h => exact .ret hop (Fin.ext h)
  · next h0 hE => exact .sys hop (fun h => h0 (congrArg Fin.val h)) (fun h => hE (congrArg Fin.val h))

/-- Table T8 selects the row a word of its leading nibble stands in. -/
theorem dispatch_decodeT8 {w : Word} (hop : opField w = 0x8) : Dispatch w (decodeT8 w) := by
  unfold decodeT8
  split
  · next h => exact .ldVxVy hop (Fin.ext h)
  · next h => exact .orVxVy hop (Fin.ext h)
  · next h => exact .andVxVy hop (Fin.ext h)
  · next h => exact .xorVxVy hop (Fin.ext h)
  · next h => exact .addVxVy hop (Fin.ext h)
  · next h => exact .subVxVy hop (Fin.ext h)
  · next h => exact .shrVxVy hop (Fin.ext h)
  · next h => exact .subnVxVy hop (Fin.ext h)
  · next h => exact .shlVxVy hop (Fin.ext h)
  · refine .nopT8 hop ?_
    simp only [t8Selectors, List.mem_cons, List.not_mem_nil, Fin.ext_iff, or_false, not_or]
    exact ⟨‹_›, ‹_›, ‹_›, ‹_›, ‹_›, ‹_›, ‹_›, ‹_›, ‹_›⟩

/-- Table TE selects the row a word of its leading nibble stands in. -/
theorem dispatch_decodeTe {w : Word} (hop : opField w = 0xE) : Dispatch w (decodeTe w) := by
  unfold decodeTe
  split
  · next h => exact .skp hop (Fin.ext h)
  · next h => exact .sknp hop (Fin.ext h)
  · next hE h1 => exact .nopTe hop (fun h => h1 (congrArg Fin.val h)) (fun h => hE (congrArg Fin.val h))

/-- Table TF selects the row a word of its leading nibble stands in. -/
theorem dispatch_decodeTf {w : Word} (hop : opField w = 0xF) : Dispatch w (decodeTf w) := by
  unfold decodeTf
  split
  · next h => exact .ldVxDt hop (BitVec.eq_of_toNat_eq h)
  · next h => exact .ldVxK hop (BitVec.eq_of_toNat_eq h)
  · next h => exact .ldDtVx hop (BitVec.eq_of_toNat_eq h)
  · next h => exact .ldStVx hop (BitVec.eq_of_toNat_eq h)
  · next h => exact .addIVx hop (BitVec.eq_of_toNat_eq h)
  · next h => exact .ldFVx hop (BitVec.eq_of_toNat_eq h)
  · next h => exact .ldBVx hop (BitVec.eq_of_toNat_eq h)
  · next h => exact .ldMiVx hop (BitVec.eq_of_toNat_eq h)
  · next h => exact .ldVxMi hop (BitVec.eq_of_toNat_eq h)
  · refine .nopTf hop ?_
    simp only [tfSelectors, List.mem_cons, List.not_mem_nil, ← BitVec.toNat_inj, or_false, not_or]
    exact ⟨‹_›, ‹_›, ‹_›, ‹_›, ‹_›, ‹_›, ‹_›, ‹_›, ‹_›⟩

/-- Every word stands in the row of the instruction that the dispatcher selects (R113). -/
theorem dispatch_decodeWord (w : Word) : Dispatch w (decodeWord w) := by
  unfold decodeWord
  split
  · next h => exact dispatch_decodeT0 (Fin.ext h)
  · next h => exact .jp (Fin.ext h)
  · next h => exact .call (Fin.ext h)
  · next h => exact .seVxByte (Fin.ext h)
  · next h => exact .sneVxByte (Fin.ext h)
  · next h => exact .seVxVy (Fin.ext h)
  · next h => exact .ldVxByte (Fin.ext h)
  · next h => exact .addVxByte (Fin.ext h)
  · next h => exact dispatch_decodeT8 (Fin.ext h)
  · next h => exact .sneVxVy (Fin.ext h)
  · next h => exact .ldIAddr (Fin.ext h)
  · next h => exact .jpV0Addr (Fin.ext h)
  · next h => exact .rnd (Fin.ext h)
  · next h => exact .drw (Fin.ext h)
  · next h => exact dispatch_decodeTe (Fin.ext h)
  · have hlt := (opField w).isLt
    have hop : (opField w).val = 15 := by grind
    exact dispatch_decodeTf (Fin.ext hop)

/-! ### Words taken apart and put together again -/

/-- The bytes of a word, put together, are the word (R73). -/
theorem wordOfBytes_extract (w : Word) : wordOfBytes (w.extractLsb' 8 8) (w.extractLsb' 0 8) = w :=
  (BitVec.extractLsb'_append_extractLsb'_eq_extractLsb' rfl).trans BitVec.extractLsb'_eq_self

/-- Decoding the two bytes of a word decodes the word and leaves no bytes. -/
theorem decodeBytes_bytesOfWord (w : Word) : decodeBytes (bytesOfWord w) = .ok (decodeWord w, []) := by
  simp [bytesOfWord, decodeBytes, wordOfBytes_extract]

/-! ### Decoding an encoded instruction -/

/-- A well-formed instruction stands in the row of its own word: the fields of the word are the operands put in. -/
theorem decodeWord_encode {i : Instr} (hi : i.wellFormed = true) : decodeWord (encode i) = i := by
  cases i with
  | cls => exact decodeWord_cls (opField_wordA 0x0 0x0E0) (nField_wordA 0x0 0x0E0)
  | ret => exact decodeWord_ret (opField_wordA 0x0 0x0EE) (nField_wordA 0x0 0x0EE)
  | sys nnn =>
    have hn : lowNibble nnn ∉ t0Selectors := by simpa [Instr.wellFormed] using hi
    simp only [t0Selectors, List.mem_cons, List.not_mem_nil, or_false, not_or, ← nField_wordA 0x0 nnn] at hn
    rw [encode, decodeWord_sys (opField_wordA 0x0 nnn) hn.1 hn.2, nnnField_wordA]
  | jp nnn => rw [encode, decodeWord_jp (opField_wordA 0x1 nnn), nnnField_wordA]
  | call nnn => rw [encode, decodeWord_call (opField_wordA 0x2 nnn), nnnField_wordA]
  | seVxByte x kk => rw [encode, decodeWord_seVxByte (opField_wordXK 0x3 x kk), xField_wordXK, kkField_wordXK]
  | sneVxByte x kk => rw [encode, decodeWord_sneVxByte (opField_wordXK 0x4 x kk), xField_wordXK, kkField_wordXK]
  | seVxVy x y => rw [encode, decodeWord_seVxVy (opField_wordXYN 0x5 x y 0x0), xField_wordXYN, yField_wordXYN]
  | ldVxByte x kk => rw [encode, decodeWord_ldVxByte (opField_wordXK 0x6 x kk), xField_wordXK, kkField_wordXK]
  | addVxByte x kk => rw [encode, decodeWord_addVxByte (opField_wordXK 0x7 x kk), xField_wordXK, kkField_wordXK]
  | ldVxVy x y =>
    rw [encode, decodeWord_ldVxVy (opField_wordXYN 0x8 x y 0x0) (nField_wordXYN 0x8 x y 0x0), xField_wordXYN,
      yField_wordXYN]
  | orVxVy x y =>
    rw [encode, decodeWord_orVxVy (opField_wordXYN 0x8 x y 0x1) (nField_wordXYN 0x8 x y 0x1), xField_wordXYN,
      yField_wordXYN]
  | andVxVy x y =>
    rw [encode, decodeWord_andVxVy (opField_wordXYN 0x8 x y 0x2) (nField_wordXYN 0x8 x y 0x2), xField_wordXYN,
      yField_wordXYN]
  | xorVxVy x y =>
    rw [encode, decodeWord_xorVxVy (opField_wordXYN 0x8 x y 0x3) (nField_wordXYN 0x8 x y 0x3), xField_wordXYN,
      yField_wordXYN]
  | addVxVy x y =>
    rw [encode, decodeWord_addVxVy (opField_wordXYN 0x8 x y 0x4) (nField_wordXYN 0x8 x y 0x4), xField_wordXYN,
      yField_wordXYN]
  | subVxVy x y =>
    rw [encode, decodeWord_subVxVy (opField_wordXYN 0x8 x y 0x5) (nField_wordXYN 0x8 x y 0x5), xField_wordXYN,
      yField_wordXYN]
  | shrVxVy x y =>
    rw [encode, decodeWord_shrVxVy (opField_wordXYN 0x8 x y 0x6) (nField_wordXYN 0x8 x y 0x6), xField_wordXYN,
      yField_wordXYN]
  | subnVxVy x y =>
    rw [encode, decodeWord_subnVxVy (opField_wordXYN 0x8 x y 0x7) (nField_wordXYN 0x8 x y 0x7), xField_wordXYN,
      yField_wordXYN]
  | shlVxVy x y =>
    rw [encode, decodeWord_shlVxVy (opField_wordXYN 0x8 x y 0xE) (nField_wordXYN 0x8 x y 0xE), xField_wordXYN,
      yField_wordXYN]
  | sneVxVy x y => rw [encode, decodeWord_sneVxVy (opField_wordXYN 0x9 x y 0x0), xField_wordXYN, yField_wordXYN]
  | ldIAddr nnn => rw [encode, decodeWord_ldIAddr (opField_wordA 0xA nnn), nnnField_wordA]
  | jpV0Addr nnn => rw [encode, decodeWord_jpV0Addr (opField_wordA 0xB nnn), nnnField_wordA]
  | rnd x kk => rw [encode, decodeWord_rnd (opField_wordXK 0xC x kk), xField_wordXK, kkField_wordXK]
  | drw x y n =>
    rw [encode, decodeWord_drw (opField_wordXYN 0xD x y n), xField_wordXYN, yField_wordXYN, nField_wordXYN]
  | skp x =>
    rw [encode, decodeWord_skp (opField_wordXYN 0xE x 0x9 0xE) (nField_wordXYN 0xE x 0x9 0xE), xField_wordXYN]
  | sknp x =>
    rw [encode, decodeWord_sknp (opField_wordXYN 0xE x 0xA 0x1) (nField_wordXYN 0xE x 0xA 0x1), xField_wordXYN]
  | ldVxDt x => rw [encode, decodeWord_ldVxDt (opField_wordXK 0xF x 0x07) (kkField_wordXK 0xF x 0x07), xField_wordXK]
  | ldVxK x => rw [encode, decodeWord_ldVxK (opField_wordXK 0xF x 0x0A) (kkField_wordXK 0xF x 0x0A), xField_wordXK]
  | ldDtVx x => rw [encode, decodeWord_ldDtVx (opField_wordXK 0xF x 0x15) (kkField_wordXK 0xF x 0x15), xField_wordXK]
  | ldStVx x => rw [encode, decodeWord_ldStVx (opField_wordXK 0xF x 0x18) (kkField_wordXK 0xF x 0x18), xField_wordXK]
  | addIVx x => rw [encode, decodeWord_addIVx (opField_wordXK 0xF x 0x1E) (kkField_wordXK 0xF x 0x1E), xField_wordXK]
  | ldFVx x => rw [encode, decodeWord_ldFVx (opField_wordXK 0xF x 0x29) (kkField_wordXK 0xF x 0x29), xField_wordXK]
  | ldBVx x => rw [encode, decodeWord_ldBVx (opField_wordXK 0xF x 0x33) (kkField_wordXK 0xF x 0x33), xField_wordXK]
  | ldMiVx x => rw [encode, decodeWord_ldMiVx (opField_wordXK 0xF x 0x55) (kkField_wordXK 0xF x 0x55), xField_wordXK]
  | ldVxMi x => rw [encode, decodeWord_ldVxMi (opField_wordXK 0xF x 0x65) (kkField_wordXK 0xF x 0x65), xField_wordXK]
  | nopT8 x y n =>
    have hn : n ∉ t8Selectors := by simpa [Instr.wellFormed] using hi
    rw [notMem_t8Selectors_iff, ← nField_wordXYN 0x8 x y n] at hn
    rw [encode, decodeWord_nopT8 (opField_wordXYN 0x8 x y n) hn, xField_wordXYN, yField_wordXYN, nField_wordXYN]
  | nopTe x m n =>
    have hn : n ∉ teSelectors := by simpa [Instr.wellFormed] using hi
    rw [← nField_wordXYN 0xE x m n] at hn
    simp only [teSelectors, List.mem_cons, List.not_mem_nil, or_false, not_or] at hn
    rw [encode, decodeWord_nopTe (opField_wordXYN 0xE x m n) hn.1 hn.2, xField_wordXYN, yField_wordXYN, nField_wordXYN]
  | nopTf x kk =>
    have hk : kk ∉ tfSelectors := by simpa [Instr.wellFormed] using hi
    rw [← kkField_wordXK 0xF x kk] at hk
    rw [encode, decodeWord_nopTf (opField_wordXK 0xF x kk) hk, xField_wordXK, kkField_wordXK]

/-- Settles O3: the word put together from the bytes is the encoding, whose row is the instruction's own. -/
theorem decodeInvertsEncode : Obligations.DecodeInvertsEncode := fun i hi => by
  rw [encodeBytes, decodeBytes_bytesOfWord, decodeWord_encode hi]

end Sys2Proof
end

section
/-! PROOF. The encoder after the decoder, the no-op space and the ignored bits (spec/30_encoding.md sections 2 and 3;
O2, O4, O5 and O7): each claim about every word is read off the row that the word stands in. -/

namespace Sys2Proof

/-! ### A word from its fields -/

/-- A word is put together from its leading nibble and its address. -/
theorem wordA_fields {w : Word} {op : BitVec 4} (hop : opField w = nibbleOf op) : wordA op (nnnField w) = w := by
  have h : op.toNat = w.toNat / 4096 % 16 := (congrArg Fin.val hop).symm.trans (opField_val w)
  have hw := w.isLt
  apply BitVec.eq_of_toNat_eq
  rw [wordA_toNat, nnnField_toNat]
  omega

/-- A word is put together from its leading nibble, its register and its byte. -/
theorem wordXK_fields {w : Word} {op : BitVec 4} (hop : opField w = nibbleOf op) :
    wordXK op (xField w) (kkField w) = w := by
  have h : op.toNat = w.toNat / 4096 % 16 := (congrArg Fin.val hop).symm.trans (opField_val w)
  have hw := w.isLt
  apply BitVec.eq_of_toNat_eq
  rw [wordXK_toNat, xField_val, kkField_toNat]
  omega

/-- A word is put together from its four nibbles. -/
theorem wordXYN_fields {w : Word} {op : BitVec 4} (hop : opField w = nibbleOf op) :
    wordXYN op (xField w) (yField w) (nField w) = w := by
  have h : op.toNat = w.toNat / 4096 % 16 := (congrArg Fin.val hop).symm.trans (opField_val w)
  have hw := w.isLt
  apply BitVec.eq_of_toNat_eq
  rw [wordXYN_toNat, xField_val, yField_val, nField_val]
  omega

/-- Words with the same four nibbles are equal. -/
theorem eq_of_fields {v w : Word} (ho : opField v = opField w) (hx : xField v = xField w) (hy : yField v = yField w)
    (hn : nField v = nField w) : v = w := by
  rw [← wordXYN_fields (w := v) (nibbleOf_nibbleBits _).symm, ho, hx, hy, hn,
    wordXYN_fields (nibbleOf_nibbleBits _).symm]

/-- A field under a mask of ones is kept. -/
theorem extract_and_ones (w m : Word) {lo len : Nat} (hm : m.extractLsb' lo len = BitVec.allOnes len) :
    (w &&& m).extractLsb' lo len = w.extractLsb' lo len := by
  rw [BitVec.extractLsb'_and, hm, BitVec.and_allOnes]

/-- A field under a mask of zeros is cleared. -/
theorem extract_and_zero (w m : Word) {lo len : Nat} (hm : m.extractLsb' lo len = 0#len) :
    (w &&& m).extractLsb' lo len = 0#len := by
  rw [BitVec.extractLsb'_and, hm, BitVec.and_zero]

/-- A word under the mask `0xFFF0` is the same word with a low nibble of 0. -/
theorem and_FFF0 {w : Word} {op : BitVec 4} (hop : opField w = nibbleOf op) :
    w &&& 0xFFF0 = wordXYN op (xField w) (yField w) 0x0 := by
  apply eq_of_fields
  · rw [opField_wordXYN, ← hop]; exact congrArg nibbleOf (extract_and_ones w _ rfl)
  · rw [xField_wordXYN]; exact congrArg nibbleOf (extract_and_ones w _ rfl)
  · rw [yField_wordXYN]; exact congrArg nibbleOf (extract_and_ones w _ rfl)
  · rw [nField_wordXYN]; exact congrArg nibbleOf (extract_and_zero w _ rfl)

/-- A field kept by a mask and not touched by the bits set afterwards is kept. -/
theorem extract_and_ones_or (w m k : Word) {lo len : Nat} (hm : m.extractLsb' lo len = BitVec.allOnes len)
    (hk : k.extractLsb' lo len = 0#len) : (w &&& m ||| k).extractLsb' lo len = w.extractLsb' lo len := by
  rw [BitVec.extractLsb'_or, extract_and_ones w m hm, hk, BitVec.or_zero]

/-- A field cleared by a mask is the field of the bits set afterwards. -/
theorem extract_and_zero_or (w m k : Word) {lo len : Nat} (hm : m.extractLsb' lo len = 0#len) :
    (w &&& m ||| k).extractLsb' lo len = k.extractLsb' lo len := by
  rw [BitVec.extractLsb'_or, extract_and_zero w m hm, BitVec.zero_or]

/-- A word whose third nibble is cleared and then set from `k` is the same word with that nibble. -/
theorem and_FF0F_or {w : Word} {op : BitVec 4} (k : Word) (hop : opField w = nibbleOf op)
    (ho : k.extractLsb' 12 4 = 0#4) (hx : k.extractLsb' 8 4 = 0#4) (hn : k.extractLsb' 0 4 = 0#4) :
    w &&& 0xFF0F ||| k = wordXYN op (xField w) (yField k) (nField w) := by
  apply eq_of_fields
  · rw [opField_wordXYN, ← hop]; exact congrArg nibbleOf (extract_and_ones_or w _ k rfl ho)
  · rw [xField_wordXYN]; exact congrArg nibbleOf (extract_and_ones_or w _ k rfl hx)
  · rw [yField_wordXYN]; exact congrArg nibbleOf (extract_and_zero_or w _ k rfl)
  · rw [nField_wordXYN]; exact congrArg nibbleOf (extract_and_ones_or w _ k rfl hn)

/-! ### Encoding a decoded word -/

/-- A word without ignored bits is its own canonical word (R112). -/
theorem canonicalWord_eq_self {w : Word} (h0 : opField w = 0x0 → nField w ≠ 0x0 ∧ nField w ≠ 0xE)
    (h5 : opField w ≠ 0x5) (h9 : opField w ≠ 0x9) (hE : opField w = 0xE → nField w ≠ 0x1 ∧ nField w ≠ 0xE) :
    canonicalWord w = w := by
  unfold canonicalWord
  split
  · next ho hn => exact absurd (Fin.ext hn) (h0 (Fin.ext ho)).1
  · next ho hn => exact absurd (Fin.ext hn) (h0 (Fin.ext ho)).2
  · next ho => exact absurd (Fin.ext ho) h5
  · next ho => exact absurd (Fin.ext ho) h9
  · next ho hn => exact absurd (Fin.ext hn) (hE (Fin.ext ho)).2
  · next ho hn => exact absurd (Fin.ext hn) (hE (Fin.ext ho)).1
  · rfl

/-- The leading nibbles under which the dispatcher ignores bits (R112). -/
def ignoringOps : List Nibble := [0x0, 0x5, 0x9, 0xE]

/-- A word with any other leading nibble is its own canonical word (R112). -/
theorem canonicalWord_of_op {w : Word} (h : opField w ∉ ignoringOps) : canonicalWord w = w := by
  simp only [ignoringOps, List.mem_cons, List.not_mem_nil, or_false, not_or] at h
  obtain ⟨h0, h5, h9, hE⟩ := h
  exact canonicalWord_eq_self (fun e => absurd e h0) h5 h9 (fun e => absurd e hE)

/-- Leading nibble and address make up the canonical word where no bit is ignored. -/
theorem wordA_canonical {w : Word} {op : BitVec 4} (hop : opField w = nibbleOf op) (h : nibbleOf op ∉ ignoringOps) :
    wordA op (nnnField w) = canonicalWord w := by
  rw [canonicalWord_of_op (hop ▸ h), wordA_fields hop]

/-- Leading nibble, register and byte make up the canonical word where no bit is ignored. -/
theorem wordXK_canonical {w : Word} {op : BitVec 4} {kk : Byte} (hop : opField w = nibbleOf op) (hk : kkField w = kk)
    (h : nibbleOf op ∉ ignoringOps) : wordXK op (xField w) kk = canonicalWord w := by
  rw [canonicalWord_of_op (hop ▸ h), ← hk, wordXK_fields hop]

/-- The four nibbles make up the canonical word where no bit is ignored. -/
theorem wordXYN_canonical {w : Word} {op : BitVec 4} {n : Nibble} (hop : opField w = nibbleOf op) (hn : nField w = n)
    (h : nibbleOf op ∉ ignoringOps) : wordXYN op (xField w) (yField w) n = canonicalWord w := by
  rw [canonicalWord_of_op (hop ▸ h), ← hn, wordXYN_fields hop]

/-- The instruction of a word's row is well-formed: a no-op row is reached only in the no-op space (R111). -/
theorem Dispatch.wellFormed {w : Word} {i : Instr} (h : Dispatch w i) : i.wellFormed = true := by
  cases h with
  | sys hop h0 hE =>
    have hn : lowNibble (nnnField w) = nField w := by
      rw [← nField_wordA 0x0, wordA_fields hop]
    simp [Instr.wellFormed, t0Selectors, hn, h0, hE]
  | nopT8 hop hn => simpa [Instr.wellFormed] using hn
  | nopTe hop h1 hE => simp [Instr.wellFormed, teSelectors, h1, hE]
  | nopTf hop hk => simpa [Instr.wellFormed] using hk
  | _ => rfl

/-- The word of the instruction of a word's row is the canonical word (R112). -/
theorem Dispatch.encode_eq {w : Word} {i : Instr} (h : Dispatch w i) : encode i = canonicalWord w := by
  cases h with
  | cls hop hn => simp [canonicalWord, hop, hn, encode, wordA]
  | ret hop hn => simp [canonicalWord, hop, hn, encode, wordA]
  | sys hop h0 hE =>
    rw [canonicalWord_eq_self (fun _ => ⟨h0, hE⟩) (by simp [hop]) (by simp [hop]) (by simp [hop])]
    exact wordA_fields hop
  | seVxVy hop =>
    have hc : canonicalWord w = w &&& 0xFFF0 := by simp [canonicalWord, hop]
    exact (hc.trans (and_FFF0 (op := 0x5) hop)).symm
  | sneVxVy hop =>
    have hc : canonicalWord w = w &&& 0xFFF0 := by simp [canonicalWord, hop]
    exact (hc.trans (and_FFF0 (op := 0x9) hop)).symm
  | skp hop hn =>
    have hc : canonicalWord w = w &&& 0xFF0F ||| 0x0090 := by simp [canonicalWord, hop, hn]
    rw [hc, and_FF0F_or (op := 0xE) 0x0090 hop rfl rfl rfl, hn]
    rfl
  | sknp hop hn =>
    have hc : canonicalWord w = w &&& 0xFF0F ||| 0x00A0 := by simp [canonicalWord, hop, hn]
    rw [hc, and_FF0F_or (op := 0xE) 0x00A0 hop rfl rfl rfl, hn]
    rfl
  | nopTe hop h1 hE =>
    rw [canonicalWord_eq_self (by simp [hop]) (by simp [hop]) (by simp [hop]) (fun _ => ⟨h1, hE⟩)]
    exact wordXYN_fields hop
  | jp hop => exact wordA_canonical hop (by decide)
  | call hop => exact wordA_canonical hop (by decide)
  | ldIAddr hop => exact wordA_canonical hop (by decide)
  | jpV0Addr hop => exact wordA_canonical hop (by decide)
  | seVxByte hop => exact wordXK_canonical hop rfl (by decide)
  | sneVxByte hop => exact wordXK_canonical hop rfl (by decide)
  | ldVxByte hop => exact wordXK_canonical hop rfl (by decide)
  | addVxByte hop => exact wordXK_canonical hop rfl (by decide)
  | rnd hop => exact wordXK_canonical hop rfl (by decide)
  | ldVxVy hop hn => exact wordXYN_canonical hop hn (by decide)
  | orVxVy hop hn => exact wordXYN_canonical hop hn (by decide)
  | andVxVy hop hn => exact wordXYN_canonical hop hn (by decide)
  | xorVxVy hop hn => exact wordXYN_canonical hop hn (by decide)
  | addVxVy hop hn => exact wordXYN_canonical hop hn (by decide)
  | subVxVy hop hn => exact wordXYN_canonical hop hn (by decide)
  | shrVxVy hop hn => exact wordXYN_canonical hop hn (by decide)
  | subnVxVy hop hn => exact wordXYN_canonical hop hn (by decide)
  | shlVxVy hop hn => exact wordXYN_canonical hop hn (by decide)
  | drw hop => exact wordXYN_canonical hop rfl (by decide)
  | ldVxDt hop hk => exact wordXK_canonical hop hk (by decide)
  | ldVxK hop hk => exact wordXK_canonical hop hk (by decide)
  | ldDtVx hop hk => exact wordXK_canonical hop hk (by decide)
  | ldStVx hop hk => exact wordXK_canonical hop hk (by decide)
  | addIVx hop hk => exact wordXK_canonical hop hk (by decide)
  | ldFVx hop hk => exact wordXK_canonical hop hk (by decide)
  | ldBVx hop hk => exact wordXK_canonical hop hk (by decide)
  | ldMiVx hop hk => exact wordXK_canonical hop hk (by decide)
  | ldVxMi hop hk => exact wordXK_canonical hop hk (by decide)
  | nopT8 hop => exact wordXYN_canonical hop rfl (by decide)
  | nopTf hop => exact wordXK_canonical hop rfl (by decide)

/-- Settles O4: every word stands in a row, and the instruction of the row encodes as the canonical word. -/
theorem encodeInvertsDecodeUpToIgnoredBits : Obligations.EncodeInvertsDecodeUpToIgnoredBits := fun w =>
  ⟨(dispatch_decodeWord w).wellFormed, (dispatch_decodeWord w).encode_eq⟩

/-- Settles O2: a no-op instruction is decoded only in its own row, whose premises are the no-op space. -/
theorem noOpSpaceIsExact : Obligations.NoOpSpaceIsExact := by
  intro w
  have hrow := dispatch_decodeWord w
  constructor
  · rintro (h | h | h | h) <;> rw [h] at hrow <;> cases hrow
    case inl.sys hop h0 hE => exact .inl ⟨hop, by simp [h0, hE]⟩
    case inr.inl.nopT8 hop hn => exact .inr (.inl ⟨hop, (notMem_t8Selectors_iff _).1 hn⟩)
    case inr.inr.inl.nopTe hop h1 hE => exact .inr (.inr (.inl ⟨hop, by simp [h1, hE]⟩))
    case inr.inr.inr.nopTf hop hk => exact .inr (.inr (.inr ⟨hop, hk⟩))
  · rintro (⟨hop, hn⟩ | ⟨hop, hn⟩ | ⟨hop, hn⟩ | ⟨hop, hk⟩)
    · simp only [List.mem_cons, List.not_mem_nil, or_false, not_or] at hn
      exact .inl (decodeWord_sys hop hn.1 hn.2)
    · exact .inr (.inl (decodeWord_nopT8 hop hn))
    · simp only [List.mem_cons, List.not_mem_nil, or_false, not_or] at hn
      exact .inr (.inr (.inl (decodeWord_nopTe hop hn.1 hn.2)))
    · exact .inr (.inr (.inr (decodeWord_nopTf hop hk)))

/-- Settles O5: both words stand in one row, whose instruction is made of the examined fields alone. -/
theorem ignoredBitsDoNotSelect : Obligations.IgnoredBitsDoNotSelect := by
  intro v w ho
  refine ⟨fun hop hn hs => ?_, fun hop hx hy => ?_, fun hop hx hn hs => ?_⟩
  · obtain h | h := hs
    · rw [decodeWord_cls hop h, decodeWord_cls (ho.trans hop) (hn.trans h)]
    · rw [decodeWord_ret hop h, decodeWord_ret (ho.trans hop) (hn.trans h)]
  · obtain h | h := hop
    · rw [decodeWord_seVxVy h, decodeWord_seVxVy (ho.trans h), hx, hy]
    · rw [decodeWord_sneVxVy h, decodeWord_sneVxVy (ho.trans h), hx, hy]
  · obtain h | h := hs
    · rw [decodeWord_sknp hop h, decodeWord_sknp (ho.trans hop) (hn.trans h), hx]
    · rw [decodeWord_skp hop h, decodeWord_skp (ho.trans hop) (hn.trans h), hx]

/-- Settles O7: each word is in the row named, by evaluation of the dispatcher. -/
theorem sampleWordsDecode : Obligations.SampleWordsDecode := by
  unfold Obligations.SampleWordsDecode
  decide

end Sys2Proof
end

section
/-! PROOF. The opcode table beside the dispatcher (spec/30_encoding.md section 2 and opcode_table.json; O6). The row
that a word stands in matches it; the fixed bits of two rows of one precedence differ, so no other row of the list
applies; and in the no-op space no row without the fallback mark matches. -/

namespace Sys2Proof

/-! ### At most one row of a precedence -/

/-- Two rows of one precedence differ in a bit that both fix, so no word matches both. -/
theorem opcodeTable_disjoint :
    opcodeTable.Pairwise (fun r q => r.fallback = q.fallback → r.value &&& q.mask ≠ q.value &&& r.mask) := by
  decide

/-- A word that matches two rows gives them the same bits where both fix one. -/
theorem OpcodeRow.value_and_mask {r q : OpcodeRow} {w : Word} (hr : r.matchesWord w = true)
    (hq : q.matchesWord w = true) : r.value &&& q.mask = q.value &&& r.mask := by
  simp only [OpcodeRow.matchesWord, beq_iff_eq] at hr hq
  rw [← hr, ← hq, BitVec.and_assoc, BitVec.and_assoc, BitVec.and_comm r.mask]

/-- Where no two entries of a list both pass a test, an entry that passes it is all that the filter leaves. -/
theorem filter_eq_singleton {α : Type} {p : α → Bool} {l : List α} {r : α}
    (hl : l.Pairwise (fun a b => ¬ (p a = true ∧ p b = true))) (hr : r ∈ l) (hp : p r = true) : l.filter p = [r] := by
  induction l with
  | nil => cases hr
  | cons a l ih =>
    obtain ⟨ha, hl⟩ := List.pairwise_cons.1 hl
    obtain rfl | hr := List.mem_cons.1 hr
    · have hnone : l.filter p = [] := by
        rw [List.filter_eq_nil_iff]
        exact fun b hb hpb => ha b hb ⟨hp, hpb⟩
      rw [List.filter_cons_of_pos hp, hnone]
    · rw [List.filter_cons_of_neg (fun hpa => ha r hr ⟨hpa, hp⟩), ih hl hr]

/-- The matching rows of one precedence are the one row, once there is one. -/
theorem filter_opcodeTable {r : OpcodeRow} {w : Word} (hr : r ∈ opcodeTable) (hm : r.matchesWord w = true) :
    opcodeTable.filter (fun q => (q.fallback == r.fallback) && q.matchesWord w) = [r] := by
  refine filter_eq_singleton (opcodeTable_disjoint.imp fun hne hboth => ?_) hr (by simp [hm])
  simp only [Bool.and_eq_true, beq_iff_eq] at hboth
  obtain ⟨⟨hf, hm⟩, hf', hm'⟩ := hboth
  exact hne (hf.trans hf'.symm) (OpcodeRow.value_and_mask hm hm')

/-! ### Which row applies -/

/-- The word's one applicable row has the name `m`. -/
def AppliesAs (w : Word) (m : String) : Prop := ∃ r, applicableRows w = [r] ∧ r.mnemonic = m

/-- A matching row without the fallback mark applies alone (R111). -/
theorem AppliesAs.of_matches {w : Word} {m : String} {v k : Word} (hr : ⟨m, v, k, false⟩ ∈ opcodeTable)
    (hm : w &&& k = v) : AppliesAs w m := by
  have hrow : opcodeTable.filter (fun q => !q.fallback && q.matchesWord w) = [⟨m, v, k, false⟩] := by
    simpa using filter_opcodeTable (w := w) hr (by simp [OpcodeRow.matchesWord, hm])
  exact ⟨_, by rw [applicableRows, hrow], rfl⟩

/-- A matching fallback row applies alone where no other row matches (R111). -/
theorem AppliesAs.of_fallback {w : Word} {m : String} {v k : Word} (hr : ⟨m, v, k, true⟩ ∈ opcodeTable)
    (hm : w &&& k = v) (hnone : ∀ q ∈ opcodeTable, q.fallback = false → q.matchesWord w = false) : AppliesAs w m := by
  have hrow : opcodeTable.filter (fun q => q.fallback && q.matchesWord w) = [⟨m, v, k, true⟩] := by
    simpa using filter_opcodeTable (w := w) hr (by simp [OpcodeRow.matchesWord, hm])
  have hnil : opcodeTable.filter (fun q => !q.fallback && q.matchesWord w) = [] := by
    rw [List.filter_eq_nil_iff]
    intro q hq
    cases hf : q.fallback with
    | false => simp [hnone q hq hf]
    | true => simp
  exact ⟨_, by rw [applicableRows, hnil, hrow], rfl⟩

/-! ### The rows by the bits they fix -/

/-- The leading nibble alone, as the mask `0xF000` leaves it. -/
theorem and_F000 {w : Word} {op : Nibble} (hop : opField w = op) :
    w &&& 0xF000 = wordXYN (nibbleBits op) 0x0 0x0 0x0 := by
  apply eq_of_fields
  · rw [opField_wordXYN, nibbleOf_nibbleBits, ← hop]; exact congrArg nibbleOf (extract_and_ones w _ rfl)
  · rw [xField_wordXYN]; exact congrArg nibbleOf (extract_and_zero w _ rfl)
  · rw [yField_wordXYN]; exact congrArg nibbleOf (extract_and_zero w _ rfl)
  · rw [nField_wordXYN]; exact congrArg nibbleOf (extract_and_zero w _ rfl)

/-- The leading and the low nibble, as the mask `0xF00F` leaves them. -/
theorem and_F00F {w : Word} {op : Nibble} (hop : opField w = op) :
    w &&& 0xF00F = wordXYN (nibbleBits op) 0x0 0x0 (nField w) := by
  apply eq_of_fields
  · rw [opField_wordXYN, nibbleOf_nibbleBits, ← hop]; exact congrArg nibbleOf (extract_and_ones w _ rfl)
  · rw [xField_wordXYN]; exact congrArg nibbleOf (extract_and_zero w _ rfl)
  · rw [yField_wordXYN]; exact congrArg nibbleOf (extract_and_zero w _ rfl)
  · rw [nField_wordXYN]; exact congrArg nibbleOf (extract_and_ones w _ rfl)

/-- The leading nibble and the low byte, as the mask `0xF0FF` leaves them. -/
theorem and_F0FF {w : Word} {op : Nibble} (hop : opField w = op) :
    w &&& 0xF0FF = wordXK (nibbleBits op) 0x0 (kkField w) := by
  have ho : opField (w &&& 0xF0FF) = op := hop ▸ congrArg nibbleOf (extract_and_ones w _ rfl)
  have hx : xField (w &&& 0xF0FF) = 0x0 := congrArg nibbleOf (extract_and_zero w _ rfl)
  have hk : kkField (w &&& 0xF0FF) = kkField w := extract_and_ones w _ rfl
  rw [← wordXK_fields (ho.trans (nibbleOf_nibbleBits op).symm), hx, hk]

/-- A word whose leading nibble has one row. -/
theorem AppliesAs.of_op {w : Word} {m : String} {op : Nibble} (hop : opField w = op)
    (hr : ⟨m, wordXYN (nibbleBits op) 0x0 0x0 0x0, 0xF000, false⟩ ∈ opcodeTable) : AppliesAs w m :=
  .of_matches hr (and_F000 hop)

/-- A word whose row fixes the leading and the low nibble. -/
theorem AppliesAs.of_op_n {w : Word} {m : String} {op : Nibble} {n : Nibble} (hop : opField w = op)
    (hn : nField w = n) (hr : ⟨m, wordXYN (nibbleBits op) 0x0 0x0 n, 0xF00F, false⟩ ∈ opcodeTable) : AppliesAs w m :=
  .of_matches hr (hn ▸ and_F00F hop)

/-- A word whose row fixes the leading nibble and the low byte. -/
theorem AppliesAs.of_op_kk {w : Word} {m : String} {op : Nibble} {kk : Byte} (hop : opField w = op)
    (hk : kkField w = kk) (hr : ⟨m, wordXK (nibbleBits op) 0x0 kk, 0xF0FF, false⟩ ∈ opcodeTable) : AppliesAs w m :=
  .of_matches hr (hk ▸ and_F0FF hop)

/-! ### The no-op space -/

/-- A row that matches a word has the word's leading nibble: every mask covers it. -/
theorem OpcodeRow.opField_value {q : OpcodeRow} {w : Word} (hq : q ∈ opcodeTable) (hm : q.matchesWord w = true) :
    opField q.value = opField w := by
  have hmask : ∀ r ∈ opcodeTable, r.mask.extractLsb' 12 4 = BitVec.allOnes 4 := by decide
  rw [← beq_iff_eq.1 hm]
  exact congrArg nibbleOf (extract_and_ones w q.mask (hmask q hq))

/-- No row without the fallback mark matches a word whose low nibble is none of those that the rows of its leading
nibble fix. -/
theorem noRowMatches_of_nField {w : Word} {sel : List Nibble}
    (hsel : ∀ q ∈ opcodeTable, q.fallback = false → opField q.value = opField w →
      q.mask = 0xF00F ∧ nField q.value ∈ sel) (hn : nField w ∉ sel) :
    ∀ q ∈ opcodeTable, q.fallback = false → q.matchesWord w = false := by
  intro q hq hf
  by_contra hm
  rw [Bool.not_eq_false] at hm
  obtain ⟨hmask, hmem⟩ := hsel q hq hf (OpcodeRow.opField_value hq hm)
  have hv : nField q.value = nField w := by
    rw [← beq_iff_eq.1 hm, hmask]
    exact congrArg nibbleOf (extract_and_ones w _ rfl)
  exact hn (hv ▸ hmem)

/-- No row without the fallback mark matches a word whose low byte is none of those that the rows of its leading nibble
fix. -/
theorem noRowMatches_of_kkField {w : Word} {sel : List Byte}
    (hsel : ∀ q ∈ opcodeTable, q.fallback = false → opField q.value = opField w →
      q.mask = 0xF0FF ∧ kkField q.value ∈ sel) (hk : kkField w ∉ sel) :
    ∀ q ∈ opcodeTable, q.fallback = false → q.matchesWord w = false := by
  intro q hq hf
  by_contra hm
  rw [Bool.not_eq_false] at hm
  obtain ⟨hmask, hmem⟩ := hsel q hq hf (OpcodeRow.opField_value hq hm)
  have hv : kkField q.value = kkField w := by
    rw [← beq_iff_eq.1 hm, hmask]
    exact extract_and_ones w _ rfl
  exact hk (hv ▸ hmem)

/-- The one applicable row of a word is that of the instruction it stands for. -/
theorem Dispatch.appliesAs {w : Word} {i : Instr} (h : Dispatch w i) : AppliesAs w i.mnemonic := by
  cases h with
  | jp hop => exact .of_op (m := "JP") hop (by decide)
  | call hop => exact .of_op (m := "CALL") hop (by decide)
  | seVxByte hop => exact .of_op (m := "SE_VX_BYTE") hop (by decide)
  | sneVxByte hop => exact .of_op (m := "SNE_VX_BYTE") hop (by decide)
  | seVxVy hop => exact .of_op (m := "SE_VX_VY") hop (by decide)
  | ldVxByte hop => exact .of_op (m := "LD_VX_BYTE") hop (by decide)
  | addVxByte hop => exact .of_op (m := "ADD_VX_BYTE") hop (by decide)
  | sneVxVy hop => exact .of_op (m := "SNE_VX_VY") hop (by decide)
  | ldIAddr hop => exact .of_op (m := "LD_I_ADDR") hop (by decide)
  | jpV0Addr hop => exact .of_op (m := "JP_V0_ADDR") hop (by decide)
  | rnd hop => exact .of_op (m := "RND") hop (by decide)
  | drw hop => exact .of_op (m := "DRW") hop (by decide)
  | cls hop hn => exact .of_op_n (m := "CLS") hop hn (by decide)
  | ret hop hn => exact .of_op_n (m := "RET") hop hn (by decide)
  | ldVxVy hop hn => exact .of_op_n (m := "LD_VX_VY") hop hn (by decide)
  | orVxVy hop hn => exact .of_op_n (m := "OR") hop hn (by decide)
  | andVxVy hop hn => exact .of_op_n (m := "AND") hop hn (by decide)
  | xorVxVy hop hn => exact .of_op_n (m := "XOR") hop hn (by decide)
  | addVxVy hop hn => exact .of_op_n (m := "ADD_VX_VY") hop hn (by decide)
  | subVxVy hop hn => exact .of_op_n (m := "SUB") hop hn (by decide)
  | shrVxVy hop hn => exact .of_op_n (m := "SHR") hop hn (by decide)
  | subnVxVy hop hn => exact .of_op_n (m := "SUBN") hop hn (by decide)
  | shlVxVy hop hn => exact .of_op_n (m := "SHL") hop hn (by decide)
  | skp hop hn => exact .of_op_n (m := "SKP") hop hn (by decide)
  | sknp hop hn => exact .of_op_n (m := "SKNP") hop hn (by decide)
  | ldVxDt hop hk => exact .of_op_kk (m := "LD_VX_DT") hop hk (by decide)
  | ldVxK hop hk => exact .of_op_kk (m := "LD_VX_K") hop hk (by decide)
  | ldDtVx hop hk => exact .of_op_kk (m := "LD_DT_VX") hop hk (by decide)
  | ldStVx hop hk => exact .of_op_kk (m := "LD_ST_VX") hop hk (by decide)
  | addIVx hop hk => exact .of_op_kk (m := "ADD_I_VX") hop hk (by decide)
  | ldFVx hop hk => exact .of_op_kk (m := "LD_F_VX") hop hk (by decide)
  | ldBVx hop hk => exact .of_op_kk (m := "LD_B_VX") hop hk (by decide)
  | ldMiVx hop hk => exact .of_op_kk (m := "LD_MI_VX") hop hk (by decide)
  | ldVxMi hop hk => exact .of_op_kk (m := "LD_VX_MI") hop hk (by decide)
  | sys hop h0 hE =>
    refine .of_fallback (m := "SYS") (by decide) (and_F000 hop)
      (noRowMatches_of_nField (sel := t0Selectors) ?_ ?_)
    · rw [hop]; decide
    · simp [t0Selectors, h0, hE]
  | nopT8 hop hn =>
    refine .of_fallback (m := "NOP_T8") (by decide) (and_F000 hop)
      (noRowMatches_of_nField (sel := t8Selectors) ?_ hn)
    rw [hop]; decide
  | nopTe hop h1 hE =>
    refine .of_fallback (m := "NOP_TE") (by decide) (and_F000 hop)
      (noRowMatches_of_nField (sel := teSelectors) ?_ ?_)
    · rw [hop]; decide
    · simp [teSelectors, h1, hE]
  | nopTf hop hk =>
    refine .of_fallback (m := "NOP_TF") (by decide) (and_F000 hop)
      (noRowMatches_of_kkField (sel := tfSelectors) ?_ hk)
    rw [hop]; decide

/-- Settles O6: every word stands in a row, and that row alone applies. -/
theorem opcodeTableAgreesWithDispatch : Obligations.OpcodeTableAgreesWithDispatch := fun w =>
  (dispatch_decodeWord w).appliesAs

end Sys2Proof
end

section
/-! PROOF. The assembler lines (spec/30_encoding.md section 4; O8). Every printed number fits its operand, so each line
that the disassembler prints is read back as the instruction it was printed for, or, for a `DW` line, as its word. -/

namespace Sys2Proof.Machine

/-- An address is in the range of an address operand. -/
theorem addrOf_toNat (nnn : Addr12) : addrOf nnn.toNat = some nnn := by
  have h : nnn.toNat < 4096 := nnn.isLt
  simp [addrOf, h]

/-- A byte is in the range of a byte operand. -/
theorem byteOf_toNat (kk : Byte) : byteOf kk.toNat = some kk := by
  have h : kk.toNat < 256 := kk.isLt
  simp [byteOf, h]

/-- A nibble is in the range of a nibble operand. -/
theorem rowsOf_val (n : Nibble) : rowsOf n.val = some n := by simp [rowsOf]

/-- A printed data word is read back as the word. -/
theorem assemble_dw (w : Word) : assemble ⟨.DW, [.num 4 w.toNat]⟩ = some w := by
  have h : w.toNat < 65536 := w.isLt
  simp [assemble, h]

/-- A line that is not a data word is assembled as the instruction it is read as. -/
theorem assemble_of_instr {l : AsmLine} {i : Instr} (hl : l.name ≠ .DW) (h : assembleInstr l = some i) :
    assemble l = some (encode i) := by
  unfold assemble
  split
  · exact absurd rfl hl
  · rw [h]; rfl

/-- The line printed for any instruction assembles to its word. -/
theorem assemble_disassemble (i : Instr) : assemble (disassemble i) = some (encode i) := by
  cases i with
  | nopT8 x y n => exact assemble_dw _
  | nopTe x m n => exact assemble_dw _
  | nopTf x kk => exact assemble_dw _
  | sys nnn => exact assemble_of_instr nofun (congrArg (Option.map _) (addrOf_toNat nnn))
  | jp nnn => exact assemble_of_instr nofun (congrArg (Option.map _) (addrOf_toNat nnn))
  | call nnn => exact assemble_of_instr nofun (congrArg (Option.map _) (addrOf_toNat nnn))
  | ldIAddr nnn => exact assemble_of_instr nofun (congrArg (Option.map _) (addrOf_toNat nnn))
  | jpV0Addr nnn => exact assemble_of_instr nofun (congrArg (Option.map _) (addrOf_toNat nnn))
  | seVxByte x kk => exact assemble_of_instr nofun (congrArg (Option.map _) (byteOf_toNat kk))
  | sneVxByte x kk => exact assemble_of_instr nofun (congrArg (Option.map _) (byteOf_toNat kk))
  | ldVxByte x kk => exact assemble_of_instr nofun (congrArg (Option.map _) (byteOf_toNat kk))
  | addVxByte x kk => exact assemble_of_instr nofun (congrArg (Option.map _) (byteOf_toNat kk))
  | rnd x kk => exact assemble_of_instr nofun (congrArg (Option.map _) (byteOf_toNat kk))
  | drw x y n => exact assemble_of_instr nofun (congrArg (Option.map _) (rowsOf_val n))
  | _ => exact assemble_of_instr nofun rfl

/-- Settles O8: the line printed for any instruction, decoded or not, is read back as its word. -/
theorem assemblerReadsBackDisassembly : Obligations.AssemblerReadsBackDisassembly := fun w =>
  assemble_disassemble (decodeWord w)

end Sys2Proof.Machine
end

section
/-! PROOF. What any instruction can do in a cycle, said once (spec/40_cycle_dispatch.md, spec/60_exceptions.md; O12 to
O14, O29 and O30). `exec_of_haltsIn`: where a halt condition is met, the cycle is halt entry. `exec_of_not_halts`: where
none is, the handler completes or waits and leaves a state within `HandlerFrame`, which says of every state element
which instructions may have written it. The defaults of its fields are the elements kept by `rfl`, so that each case of
the lemma names only what its instruction writes. -/

namespace Sys2Proof.Machine

/-! ### What a handler leaves -/

/-- The handler of `i` answers `u` in the cycle from `s`: the inputs and the halt status are kept, memory changes by
block writes alone, and every other state element but `pc` and the timers changes only under an instruction that names
it. -/
structure HandlerFrame (i : Instr) (s u : State) : Prop where
  inputs : KeepsInputsAndStatus s u := by exact ⟨rfl, rfl, rfl, rfl⟩
  index : (∀ n x, i ≠ .ldIAddr n ∧ i ≠ .addIVx x ∧ i ≠ .ldFVx x) →
    (∀ x, s.cfg.ldst = .keepI ∨ (i ≠ .ldMiVx x ∧ i ≠ .ldVxMi x)) → KeepsIndex s u := by exact fun _ _ => rfl
  stack : (∀ n, i ≠ .call n ∧ i ≠ .ret) → KeepsStack s u := by exact fun _ => ⟨rfl, rfl⟩
  store : ∃ a vs, u.mem = s.mem.writeBytes a vs := by exact ⟨0, [], rfl⟩
  memory : (∀ x, i ≠ .ldBVx x ∧ i ≠ .ldMiVx x) → KeepsMemory s u := by exact fun _ _ => rfl
  screen : (∀ x y n, i ≠ .cls ∧ i ≠ .drw x y n) → KeepsScreen s u := by exact fun _ _ _ => rfl
  rng : (∀ x kk, i ≠ .rnd x kk) → KeepsRng s u := by exact fun _ => rfl
  regs : ∀ r, mayWriteReg i r = false → u.reg r = s.reg r := by exact fun _ _ => rfl

/-- A handler that writes `pc` and the timers at most. -/
theorem HandlerFrame.of_pc_timers {i : Instr} {s : State} (p : Word) (d e : Byte) :
    HandlerFrame i s { s with pc := p, DT := d, ST := e } := {}

/-- A handler that writes one register the instruction may write. -/
theorem HandlerFrame.of_setReg {i : Instr} {s : State} {x : Reg} {v : Byte}
    (hr : ∀ r, mayWriteReg i r = false → r ≠ x) : HandlerFrame i s ((advance s).setReg x v) :=
  { regs := fun r h => reg_setReg_ne (advance s) x r v (hr r h) }

/-- A handler that writes VF and then one register, both of which the instruction may write. -/
theorem HandlerFrame.of_writeFlagThenResult {i : Instr} {s : State} {x : Reg} {f v : Byte}
    (hr : ∀ r, mayWriteReg i r = false → r ≠ x ∧ r ≠ VF) :
    HandlerFrame i s (writeFlagThenResult x f v (advance s)) :=
  { regs := fun r h => by
      obtain ⟨hx, hVF⟩ := hr r h
      simp [reg_writeFlagThenResult, hx, hVF] }

/-- A handler that writes the index register alone. -/
theorem HandlerFrame.of_setI {i : Instr} {s : State} {v : Word}
    (hi : ∃ n x, i = .ldIAddr n ∨ i = .addIVx x ∨ i = .ldFVx x) : HandlerFrame i s ((advance s).setI v) :=
  { index := fun h => by
      obtain ⟨n, x, hi⟩ := hi
      obtain ⟨h1, h2, h3⟩ := h n x
      exact absurd hi (by simp [h1, h2, h3]) }

/-- A handler that loads a register file and sets the index register. -/
theorem HandlerFrame.of_loadBlock {i : Instr} {s : State} {vs : Vector Byte 16} {v : Word}
    (hv : (∀ x, s.cfg.ldst = .keepI ∨ (i ≠ .ldMiVx x ∧ i ≠ .ldVxMi x)) → v = s.I)
    (hr : ∀ r : Reg, mayWriteReg i r = false → vs[r] = s.reg r) :
    HandlerFrame i s { advance s with V := vs, I := v } :=
  { index := fun _ h => hv h, regs := hr }

/-! ### How a cycle goes -/

/-- The instruction is the wait-for-key and no key is pressed. -/
def Waits (i : Instr) (s : State) : Prop := (∃ x, i = .ldVxK x) ∧ lowestKey s = none

/-- The cycle completes: it ends from a state within the frame, and sets `blocked` exactly when it waits. -/
def Completes (i : Instr) (s : State) : Prop :=
  ∃ w u, exec i s = .next (endCycle w u) ∧ HandlerFrame i s u ∧ (w = true ↔ Waits i s)

/-- An instruction other than the wait-for-key, from its equation and its frame. -/
theorem Completes.of_endCycle {i : Instr} {s u : State} (hx : exec i s = .next (endCycle false u))
    (hu : HandlerFrame i s u) (hi : ∀ x, i ≠ .ldVxK x) : Completes i s :=
  ⟨false, u, hx, hu, by simp only [Bool.false_eq_true, false_iff]; exact fun ⟨⟨x, h⟩, _⟩ => hi x h⟩

/-- An instruction that only skips. -/
theorem Completes.of_skipIf {i : Instr} {s : State} {c : Bool}
    (hx : exec i s = .next (endCycle false (skipIf c (advance s)))) (hi : ∀ x, i ≠ .ldVxK x) : Completes i s :=
  .of_endCycle (skipIf_advance c s ▸ hx) (.of_pc_timers _ _ _) hi

/-- Where no halt condition is met the cycle completes. -/
theorem exec_of_not_halts {i : Instr} {s : State} (h : haltsIn i s = none) : Completes i s := by
  cases i with
  | cls => exact .of_endCycle (exec_cls s) { screen := fun h => absurd rfl (h 0 0 0).1 } nofun
  | ret =>
    have hSP : 0 < s.SP.val := by
      by_contra h0
      simp [haltsIn, show s.SP.val = 0 by omega] at h
    exact .of_endCycle (exec_ret s hSP) { stack := fun h => absurd rfl (h 0).2 } nofun
  | sys nnn => exact .of_endCycle (exec_sys nnn s) (.of_pc_timers _ _ _) nofun
  | jp nnn => exact .of_endCycle (exec_jp nnn s) (.of_pc_timers _ _ _) nofun
  | call nnn =>
    have hSP : s.SP.val < 16 := by
      by_contra h0
      simp [haltsIn, show s.SP.val = 16 by omega] at h
    exact .of_endCycle (exec_call nnn s hSP) { stack := fun h => absurd rfl (h nnn).1 } nofun
  | seVxByte x kk => exact .of_skipIf (exec_seVxByte x kk s) nofun
  | sneVxByte x kk => exact .of_skipIf (exec_sneVxByte x kk s) nofun
  | seVxVy x y => exact .of_skipIf (exec_seVxVy x y s) nofun
  | sneVxVy x y => exact .of_skipIf (exec_sneVxVy x y s) nofun
  | skp x =>
    have hk : (s.reg x).toNat < 16 := by simpa [haltsIn, Nat.lt_succ_iff] using h
    exact .of_skipIf (exec_skp x s ⟨_, hk⟩ rfl) nofun
  | sknp x =>
    have hk : (s.reg x).toNat < 16 := by simpa [haltsIn, Nat.lt_succ_iff] using h
    exact .of_skipIf (exec_sknp x s ⟨_, hk⟩ rfl) nofun
  | ldVxByte x kk => exact .of_endCycle (exec_ldVxByte x kk s) (.of_setReg (by simp [mayWriteReg])) nofun
  | addVxByte x kk => exact .of_endCycle (exec_addVxByte x kk s) (.of_setReg (by simp [mayWriteReg])) nofun
  | ldVxVy x y => exact .of_endCycle (exec_ldVxVy x y s) (.of_setReg (by simp [mayWriteReg])) nofun
  | orVxVy x y => exact .of_endCycle (exec_orVxVy x y s) (.of_setReg (by simp [mayWriteReg])) nofun
  | andVxVy x y => exact .of_endCycle (exec_andVxVy x y s) (.of_setReg (by simp [mayWriteReg])) nofun
  | xorVxVy x y => exact .of_endCycle (exec_xorVxVy x y s) (.of_setReg (by simp [mayWriteReg])) nofun
  | ldVxDt x => exact .of_endCycle (exec_ldVxDt x s) (.of_setReg (by simp [mayWriteReg])) nofun
  | addVxVy x y => exact .of_endCycle (exec_addVxVy x y s) (.of_writeFlagThenResult (by simp [mayWriteReg])) nofun
  | subVxVy x y => exact .of_endCycle (exec_subVxVy x y s) (.of_writeFlagThenResult (by simp [mayWriteReg])) nofun
  | subnVxVy x y => exact .of_endCycle (exec_subnVxVy x y s) (.of_writeFlagThenResult (by simp [mayWriteReg])) nofun
  | shrVxVy x y => exact .of_endCycle (exec_shrVxVy x y s) (.of_writeFlagThenResult (by simp [mayWriteReg])) nofun
  | shlVxVy x y => exact .of_endCycle (exec_shlVxVy x y s) (.of_writeFlagThenResult (by simp [mayWriteReg])) nofun
  | ldIAddr nnn => exact .of_endCycle (exec_ldIAddr nnn s) (.of_setI ⟨nnn, 0, .inl rfl⟩) nofun
  | jpV0Addr nnn => exact .of_endCycle (exec_jpV0Addr nnn s) (.of_pc_timers _ _ _) nofun
  | rnd x kk =>
    exact .of_endCycle (exec_rnd x kk s)
      { rng := fun h => absurd rfl (h x kk),
        regs := fun r h => reg_setReg_ne _ x r _ (by simpa [mayWriteReg] using h) } nofun
  | drw x y n =>
    exact .of_endCycle (exec_drw x y n s)
      { screen := fun h => absurd rfl (h x y n).2,
        regs := fun r h => reg_setReg_ne _ VF r _ (by simpa [mayWriteReg] using h) } nofun
  | ldVxK x =>
    cases hk : lowestKey s with
    | some k =>
      exact ⟨false, _, exec_ldVxK x s k hk, .of_setReg (by simp [mayWriteReg]), by simp [Waits, hk]⟩
    | none => exact ⟨true, _, exec_ldVxK_waits x s hk, .of_pc_timers _ _ _, by simp [Waits, hk]⟩
  | ldDtVx x => exact .of_endCycle (exec_ldDtVx x s) (.of_pc_timers _ _ _) nofun
  | ldStVx x => exact .of_endCycle (exec_ldStVx x s) (.of_pc_timers _ _ _) nofun
  | addIVx x => exact .of_endCycle (exec_addIVx x s) (.of_setI ⟨0, x, .inr (.inl rfl)⟩) nofun
  | ldFVx x =>
    have hd : (s.reg x).toNat < 16 := by simpa [haltsIn, Nat.lt_succ_iff] using h
    exact .of_endCycle (exec_ldFVx x s ⟨_, hd⟩ rfl) (.of_setI ⟨0, x, .inr (.inr rfl)⟩) nofun
  | ldBVx x =>
    exact .of_endCycle (exec_ldBVx x s) { store := ⟨_, _, rfl⟩, memory := fun h => absurd rfl (h x).1 } nofun
  | ldMiVx x =>
    exact .of_endCycle (exec_ldMiVx x s)
      { store := ⟨_, _, rfl⟩,
        memory := fun h => absurd rfl (h x).2,
        index := fun _ h => (h x).elim indexAfterBlock_keepI fun h => absurd rfl h.1 } nofun
  | ldVxMi x =>
    refine .of_endCycle (exec_ldVxMi x s) (.of_loadBlock (fun h => ?_) fun r h => ?_) nofun
    · exact (h x).elim indexAfterBlock_keepI fun h => absurd rfl h.2
    · have hr : ¬ r ≤ x := by simpa [mayWriteReg] using h
      exact (reg_loadRegs x r (advance s)).trans (if_neg hr)
  | nopT8 x y n => exact .of_endCycle (exec_nopT8 x y n s) (.of_pc_timers _ _ _) nofun
  | nopTe x m n => exact .of_endCycle (exec_nopTe x m n s) (.of_pc_timers _ _ _) nofun
  | nopTf x kk => exact .of_endCycle (exec_nopTf x kk s) (.of_pc_timers _ _ _) nofun

/-- Where a halt condition is met the cycle is halt entry (R269). -/
theorem exec_of_haltsIn {i : Instr} {s : State} {k : HaltReason} (h : haltsIn i s = some k) :
    exec i s = .next (haltEntry k s) := by
  cases i with
  | call nnn =>
    obtain ⟨hSP, rfl⟩ : s.SP.val = 16 ∧ HaltReason.stackOverflow = k := by simpa [haltsIn] using h
    exact exec_call_overflow nnn s hSP
  | ret =>
    obtain ⟨hSP, rfl⟩ : s.SP.val = 0 ∧ HaltReason.stackUnderflow = k := by simpa [haltsIn] using h
    exact exec_ret_underflow s hSP
  | skp x =>
    obtain ⟨hk, rfl⟩ : 15 < (s.reg x).toNat ∧ HaltReason.keyIndexOutOfRange = k := by simpa [haltsIn] using h
    exact exec_skp_halt x s hk
  | sknp x =>
    obtain ⟨hk, rfl⟩ : 15 < (s.reg x).toNat ∧ HaltReason.keyIndexOutOfRange = k := by simpa [haltsIn] using h
    exact exec_sknp_halt x s hk
  | ldFVx x =>
    obtain ⟨hd, rfl⟩ : 15 < (s.reg x).toNat ∧ HaltReason.fontDigitOutOfRange = k := by simpa [haltsIn] using h
    exact exec_ldFVx_halt x s hd
  | _ => cases h

/-- What a next state of an instruction is: halt entry where a halt condition is met, else the end of a completed
cycle. -/
theorem exec_next_cases {i : Instr} {s t : State} (hx : exec i s = .next t) :
    (∃ k, haltsIn i s = some k ∧ t = haltEntry k s) ∨
    (haltsIn i s = none ∧ ∃ w u, t = endCycle w u ∧ HandlerFrame i s u ∧ (w = true ↔ Waits i s)) := by
  cases h : haltsIn i s with
  | some k =>
    have hs := exec_of_haltsIn h
    exact .inl ⟨k, rfl, by simpa [hx] using hs⟩
  | none =>
    obtain ⟨w, u, hs, hu, hw⟩ := exec_of_not_halts h
    exact .inr ⟨rfl, w, u, by simpa [hx] using hs, hu, hw⟩

/-- Every instruction answers a next state. -/
theorem exec_next (i : Instr) (s : State) : ∃ t, exec i s = .next t := by
  cases h : haltsIn i s with
  | some k => exact ⟨_, exec_of_haltsIn h⟩
  | none =>
    obtain ⟨w, u, hs, -⟩ := exec_of_not_halts h
    exact ⟨_, hs⟩

/-! ### The rules about every instruction -/

/-- Settles O13: where a halt condition is met the cycle is halt entry, which writes two fields. -/
theorem haltEntryCommitsNothing : Obligations.HaltEntryCommitsNothing := fun _ _ _ h => exec_of_haltsIn h

/-- Settles O14: a completed cycle keeps the halt status. -/
theorem onlyTheHaltConditionsHalt : Obligations.OnlyTheHaltConditionsHalt := by
  intro i s t h hx
  obtain ⟨k, hk, -⟩ | ⟨-, w, u, rfl, hu, -⟩ := exec_next_cases hx
  · rw [h] at hk; cases hk
  · obtain ⟨-, -, hhalted, hreason⟩ := hu.inputs
    exact ⟨hhalted, hreason⟩

/-- Settles O29: a halt writes none of the five elements, and a completed cycle only within the handler's frame. -/
theorem stateElementsAreWrittenOnlyByTheirInstructions :
    Obligations.StateElementsAreWrittenOnlyByTheirInstructions := by
  intro i s t hx
  obtain ⟨k, -, rfl⟩ | ⟨-, w, u, rfl, hu, -⟩ := exec_next_cases hx
  · exact ⟨fun _ _ => rfl, fun _ => ⟨rfl, rfl⟩, fun _ _ => rfl, fun _ _ _ => rfl, fun _ => rfl⟩
  · exact ⟨hu.index, hu.stack, hu.memory, hu.screen, hu.rng⟩

/-- Settles O30: a halt writes no register, and a completed cycle only those that the handler's frame names. -/
theorem registersWrittenAreTheNamedOnes : Obligations.RegistersWrittenAreTheNamedOnes := by
  intro i s t r hx hr
  obtain ⟨k, -, rfl⟩ | ⟨-, w, u, rfl, hu, -⟩ := exec_next_cases hx
  · rfl
  · exact hu.regs r hr

/-! ### A cycle and its result -/

/-- A core that is not halted runs the instruction fetched (R130). -/
theorem step_of_not_halted {s : State} (h : s.halted = false) : step s = exec (fetchInstr s) s := by
  simp [step, h]

/-- The result of a cycle is read off the state that its step leaves. -/
theorem cycle_of_step {s t : State} (h : step s = .next t) : cycle s = some (cycleResult t, t) := by
  simp [cycle, h]

/-- Settles O12: the fetched instruction answers a next state, which is halted exactly when its instruction met a halt
condition. -/
theorem everyCycleReturnsItsResult : Obligations.EveryCycleReturnsItsResult := by
  intro s hs
  obtain ⟨t, ht⟩ := exec_next (fetchInstr s) s
  have hstep : step s = .next t := (step_of_not_halted hs).trans ht
  refine ⟨t, hstep, fun h => ?_, fun k h => ?_⟩
  · obtain ⟨hhalted, -⟩ := onlyTheHaltConditionsHalt _ s t h ht
    simp [cycle_of_step hstep, cycleResult, hhalted, hs]
  · have hentry := exec_of_haltsIn h
    obtain rfl : t = haltEntry k s := by simpa [ht] using hentry
    simp [cycle_of_step hstep, cycleResult]

/-- Settles O9: the two bytes at `pc` are the fetched word. -/
theorem stepRunsTheFetchedInstruction : Obligations.StepRunsTheFetchedInstruction := by
  intro s i hs _ hd
  have hi : fetchInstr s = i := by simpa [decodeBytes, fetchInstr, fetchWord] using hd
  rw [step_of_not_halted hs, hi]

/-- Settles O10: the halted check comes before the fetch. -/
theorem haltedCoreTakesNoCycle : Obligations.HaltedCoreTakesNoCycle := by
  intro s hs
  have hstep : step s = .fault (.cycleWhileHalted s.haltReason) := by simp [step, hs]
  exact ⟨hstep, by simp [cycle, hstep]⟩

end Sys2Proof.Machine
end

section
/-! PROOF. What no instruction reads (spec/10_state.md sections 6 and 7, rules R42, R45, R46 and R52; O16, O25 and O26).
`exec_withInputs` compares the runs of an instruction from two states that differ in `blocked`, the key latch and the
configuration: where its own readers see the same latch and the same configuration, the answers differ in these three
fields alone. Each noninterference claim is the case in which two of the three are kept. -/

namespace Sys2Proof.Machine

/-- The state with `blocked`, the key latch and the configuration overwritten. -/
def State.withInputs (b : Bool) (k : KeyLatch) (c : Config) (s : State) : State :=
  { s with blocked := b, key := k, cfg := c }

theorem skipIf_withInputs (q b : Bool) (k : KeyLatch) (c : Config) (s : State) :
    skipIf q (s.withInputs b k c) = (skipIf q s).withInputs b k c := by
  cases q <;> rfl

/-- The runs of `i` from `s` and from `s` with the three fields overwritten end in one state, but for these fields: the
latch and the configuration stay as overwritten, and `blocked` agrees where it agreed before. -/
def RunsAlike (i : Instr) (s : State) (b : Bool) (k : KeyLatch) (c : Config) : Prop :=
  ∃ t b', exec i s = .next t ∧ exec i (s.withInputs b k c) = .next (t.withInputs b' k c) ∧
    (b = s.blocked → b' = t.blocked)

section
variable {i : Instr} {s u : State} {b : Bool} {k : KeyLatch} {c : Config}

/-- Both runs complete, with the three fields passed through the handler. -/
theorem RunsAlike.of_endCycle {w : Bool} (h : exec i s = .next (endCycle w u))
    (h' : exec i (s.withInputs b k c) = .next (endCycle w (u.withInputs b k c))) : RunsAlike i s b k c :=
  ⟨endCycle w u, w, h, h', fun _ => rfl⟩

/-- Both runs skip under the same condition. -/
theorem RunsAlike.of_skipIf {q : Bool} (h : exec i s = .next (endCycle false (skipIf q (advance s))))
    (h' : exec i (s.withInputs b k c) = .next (endCycle false (skipIf q (advance (s.withInputs b k c))))) :
    RunsAlike i s b k c :=
  .of_endCycle h (h'.trans (by rw [← skipIf_withInputs]; rfl))

/-- Both runs halt. -/
theorem RunsAlike.of_haltEntry {r : HaltReason} (h : exec i s = .next (haltEntry r s))
    (h' : exec i (s.withInputs b k c) = .next (haltEntry r (s.withInputs b k c))) : RunsAlike i s b k c :=
  ⟨haltEntry r s, b, h, h', id⟩

end

/-- The three readers of the latch aside, and the four of the configuration, no instruction reads any of the three
fields. -/
theorem exec_withInputs (i : Instr) (s : State) (b : Bool) (k : KeyLatch) (c : Config)
    (hk : (∃ x, i = .skp x ∨ i = .sknp x ∨ i = .ldVxK x) → k = s.key)
    (hc : (∃ x y, i = .shrVxVy x y ∨ i = .shlVxVy x y ∨ i = .ldMiVx x ∨ i = .ldVxMi x) → c = s.cfg) :
    RunsAlike i s b k c := by
  cases i with
  | seVxByte x kk => exact .of_skipIf (exec_seVxByte x kk s) (exec_seVxByte x kk _)
  | sneVxByte x kk => exact .of_skipIf (exec_sneVxByte x kk s) (exec_sneVxByte x kk _)
  | seVxVy x y => exact .of_skipIf (exec_seVxVy x y s) (exec_seVxVy x y _)
  | sneVxVy x y => exact .of_skipIf (exec_sneVxVy x y s) (exec_sneVxVy x y _)
  | ret =>
    obtain h | h := Nat.eq_zero_or_pos s.SP.val
    · exact .of_haltEntry (exec_ret_underflow s h) (exec_ret_underflow _ h)
    · exact .of_endCycle (exec_ret s h) (exec_ret (s.withInputs b k c) h)
  | call nnn =>
    obtain h | h := Nat.lt_or_eq_of_le (Nat.le_of_lt_succ s.SP.isLt)
    · exact .of_endCycle (exec_call nnn s h) (exec_call nnn (s.withInputs b k c) h)
    · exact .of_haltEntry (exec_call_overflow nnn s h) (exec_call_overflow nnn _ h)
  | ldFVx x =>
    obtain h | h := Nat.lt_or_ge (s.reg x).toNat 16
    · exact .of_endCycle (exec_ldFVx x s ⟨_, h⟩ rfl) (exec_ldFVx x _ ⟨_, h⟩ rfl)
    · exact .of_haltEntry (exec_ldFVx_halt x s h) (exec_ldFVx_halt x _ h)
  | skp x =>
    obtain rfl := hk ⟨x, .inl rfl⟩
    obtain h | h := Nat.lt_or_ge (s.reg x).toNat 16
    · exact .of_skipIf (exec_skp x s ⟨_, h⟩ rfl) (exec_skp x (s.withInputs b _ c) ⟨_, h⟩ rfl)
    · exact .of_haltEntry (exec_skp_halt x s h) (exec_skp_halt x _ h)
  | sknp x =>
    obtain rfl := hk ⟨x, .inr (.inl rfl)⟩
    obtain h | h := Nat.lt_or_ge (s.reg x).toNat 16
    · exact .of_skipIf (exec_sknp x s ⟨_, h⟩ rfl) (exec_sknp x (s.withInputs b _ c) ⟨_, h⟩ rfl)
    · exact .of_haltEntry (exec_sknp_halt x s h) (exec_sknp_halt x _ h)
  | ldVxK x =>
    obtain rfl := hk ⟨x, .inr (.inr rfl)⟩
    cases h : lowestKey s with
    | some j => exact .of_endCycle (exec_ldVxK x s j h) (exec_ldVxK x _ j h)
    | none => exact .of_endCycle (exec_ldVxK_waits x s h) (exec_ldVxK_waits x _ h)
  | shrVxVy x y =>
    obtain rfl := hc ⟨x, y, .inl rfl⟩
    exact .of_endCycle (exec_shrVxVy x y s) (exec_shrVxVy x y _)
  | shlVxVy x y =>
    obtain rfl := hc ⟨x, y, .inr (.inl rfl)⟩
    exact .of_endCycle (exec_shlVxVy x y s) (exec_shlVxVy x y _)
  | ldMiVx x =>
    obtain rfl := hc ⟨x, 0, .inr (.inr (.inl rfl))⟩
    exact .of_endCycle (exec_ldMiVx x s) (exec_ldMiVx x _)
  | ldVxMi x =>
    obtain rfl := hc ⟨x, 0, .inr (.inr (.inr rfl))⟩
    exact .of_endCycle (exec_ldVxMi x s) (exec_ldVxMi x _)
  | _ => exact .of_endCycle rfl rfl

/-- No instruction writes the key latch or the configuration. -/
theorem exec_key_cfg {i : Instr} {s t : State} (hx : exec i s = .next t) : t.key = s.key ∧ t.cfg = s.cfg := by
  obtain ⟨k, -, rfl⟩ | ⟨-, w, u, rfl, hu, -⟩ := exec_next_cases hx
  · exact ⟨rfl, rfl⟩
  · obtain ⟨hkey, hcfg, -⟩ := hu.inputs
    exact ⟨hkey, hcfg⟩

/-! ### blocked -/

/-- A completed cycle sets `blocked` exactly when its instruction waits. -/
theorem exec_blocked_iff {i : Instr} {s t : State} (hx : exec i s = .next t) (ht : t.halted = false) :
    t.blocked = true ↔ Waits i s := by
  obtain ⟨k, -, rfl⟩ | ⟨-, w, u, rfl, -, hw⟩ := exec_next_cases hx
  · cases ht
  · exact hw

/-- Settles O16: the one is the end of a completed cycle, the other `exec_withInputs` with latch and configuration
kept. -/
theorem blockedExactlyAfterAnUnansweredWait : Obligations.BlockedExactlyAfterAnUnansweredWait := by
  refine ⟨fun i s t _ hx ht => ?_, fun i s b => ?_⟩
  · rw [exec_blocked_iff hx ht, Waits, lowestKey_none]
  · obtain ⟨t, b', ht, hu, -⟩ := exec_withInputs i s b s.key s.cfg (fun _ => rfl) (fun _ => rfl)
    obtain ⟨hkey, hcfg⟩ := exec_key_cfg ht
    exact ⟨t, _, ht, hu, by rw [← hkey, ← hcfg]; rfl⟩

/-! ### The key latch -/

/-- Settles O25: no handler writes the latch, and for an instruction that does not read it the runs are alike with
`blocked` and the configuration kept. -/
theorem keyLatchIsReadByThreeAndWrittenByNone : Obligations.KeyLatchIsReadByThreeAndWrittenByNone := by
  refine ⟨fun i s t hx => (exec_key_cfg hx).1, fun _ _ => rfl, fun i s k hi => ?_⟩
  obtain ⟨t, b', ht, hu, hb⟩ := exec_withInputs i s s.blocked k s.cfg
    (by rintro ⟨x, h⟩; obtain ⟨h1, h2, h3⟩ := hi x; simp [h1, h2, h3] at h) (fun _ => rfl)
  have hout : t.withInputs b' k s.cfg = writeKeys k t := by
    rw [hb rfl, ← (exec_key_cfg ht).2]; rfl
  rw [ht, mapNext, ← hout, ← hu]
  rfl

/-! ### The configuration -/

/-- A step keeps the configuration. -/
theorem step_cfg {s t : State} (hx : step s = .next t) : t.cfg = s.cfg := by
  cases hs : s.halted with
  | true => simp [step, hs] at hx
  | false => exact (exec_key_cfg ((step_of_not_halted hs).symm.trans hx)).2

/-- A ROM load keeps the configuration. -/
theorem loadRom_cfg (rom : List Byte) (s : State) : (loadRom rom s).2.cfg = s.cfg := by
  unfold loadRom
  split <;> rfl

/-- No host move writes the configuration (R46). -/
theorem hostMove_cfg {m : HostMove} {s t : State} (h : hostMove m s = some t) : t.cfg = s.cfg := by
  cases m with
  | writeKeys k => cases h; rfl
  | cycle =>
    cases hx : step s with
    | next u =>
      obtain rfl : u = t := by simpa [hostMove, cycle_of_step hx] using h
      exact step_cfg hx
    | fault r => simp [hostMove, cycle, hx] at h
    | refused r => simp [hostMove, cycle, hx] at h
  | readPorts => cases h; rfl
  | reset => cases h; rfl
  | resetAndLoad rom => cases h; exact loadRom_cfg rom (resetPort s)
  | speed d => cases h; rfl

/-- Settles O26: no handler and no host move writes the configuration, and for an instruction that does not read it the
runs are alike with `blocked` and the latch kept. -/
theorem configurationIsReadByFourAndWrittenByNone : Obligations.ConfigurationIsReadByFourAndWrittenByNone := by
  refine ⟨fun i s t hx => (exec_key_cfg hx).2, fun m s t h => hostMove_cfg h, fun i s c hi => ?_⟩
  obtain ⟨t, b', ht, hu, hb⟩ := exec_withInputs i s s.blocked s.key c (fun _ => rfl)
    (by rintro ⟨x, y, h⟩; obtain ⟨h1, h2, h3, h4⟩ := hi x y; simp [h1, h2, h3, h4] at h)
  have hout : t.withInputs b' s.key c = { t with cfg := c } := by
    rw [hb rfl, ← (exec_key_cfg ht).1]; rfl
  rw [ht, mapNext, ← hout, ← hu]
  rfl

end Sys2Proof.Machine
end

section
/-! PROOF. The state invariant (spec/10_state.md section 7, spec/60_exceptions.md sections 3 and 8; O17 to O20): it
holds after reset and construction, every step keeps it, and so does every other move of the host. A canonical memory is
determined by what its addresses read as. -/

namespace Sys2Proof.Machine

/-! ### Every step keeps the invariant -/

/-- A wait leaves `pc` and memory, and so the fetched instruction, as they were. -/
theorem fetchInstr_of_waits {i : Instr} {s t : State} (hx : exec i s = .next t) (hw : Waits i s) :
    fetchInstr t = fetchInstr s := by
  obtain ⟨⟨x, rfl⟩, hk⟩ := hw
  rw [exec_ldVxK_waits x s hk] at hx
  cases hx
  simp [fetchInstr, fetchWord, memRead]

/-- A halt condition has a reason. -/
theorem haltsIn_ne_none {i : Instr} {s : State} {k : HaltReason} (h : haltsIn i s = some k) : k ≠ .none := by
  rintro rfl
  cases i <;> simp [haltsIn] at h

/-- A blocked core's next cycle meets no halt condition: it repeats the wait-for-key. -/
theorem StateInv.blocked_of_halts {s : State} (hs : StateInv s) {k : HaltReason}
    (h : haltsIn (fetchInstr s) s = some k) : s.blocked = false := by
  by_contra hb
  obtain ⟨x, hx⟩ := hs.blocked_waits (by simpa using hb)
  simp [hx, haltsIn] at h

/-- Settles O17: a halt is entered from an unblocked core and sets the reason with the halt; a completed cycle keeps the
halt status and blocks only in a wait, which the next cycle repeats. -/
theorem stepKeepsTheStateInvariant : Obligations.StepKeepsTheStateInvariant := by
  intro s t hs hx
  cases hrun : s.halted with
  | true => simp [step, hrun] at hx
  | false =>
    rw [step_of_not_halted hrun] at hx
    obtain ⟨k, hk, rfl⟩ | ⟨-, w, u, rfl, hu, hw⟩ := exec_next_cases hx
    · have hb : s.blocked = false := hs.blocked_of_halts hk
      exact ⟨hs.mem_wf, by simp [haltsIn_ne_none hk], by simp [hb], by simp [hb]⟩
    · obtain ⟨-, -, hhalted, hreason⟩ := hu.inputs
      obtain ⟨a, vs, hmem⟩ := hu.store
      refine ⟨?_, ?_, fun hb => ?_, by simp [hhalted, hrun]⟩
      · simpa [hmem] using writeBytes_wf a vs hs.mem_wf
      · simpa [hhalted, hreason] using hs.reason
      · have hwaits : Waits (fetchInstr s) s := hw.1 hb
        obtain ⟨⟨x, hi⟩, -⟩ := id hwaits
        exact ⟨x, (fetchInstr_of_waits hx hwaits).trans hi⟩

/-! ### Reset, construction and the host's moves -/

/-- A state that is neither halted nor blocked and has a canonical memory meets the invariant. -/
theorem stateInv_of_running {s : State} (hm : s.mem.wf) (hh : s.halted = false) (hr : s.haltReason = .none)
    (hb : s.blocked = false) : StateInv s :=
  ⟨hm, by simp [hh, hr], by simp [hb], by simp [hb]⟩

/-- Settles O18: the reset state is running, with nothing listed in memory. -/
theorem resetMeetsTheStateInvariant : Obligations.ResetMeetsTheStateInvariant :=
  stateInv_of_running nil_wf rfl rfl rfl

/-- A ROM load into a running core keeps the invariant. -/
theorem loadRom_stateInv (rom : List Byte) {s : State} (hm : s.mem.wf) (hh : s.halted = false)
    (hr : s.haltReason = .none) (hb : s.blocked = false) : StateInv (loadRom rom s).2 := by
  unfold loadRom
  split
  · exact stateInv_of_running (writeBytes_wf _ _ hm) hh hr hb
  · exact stateInv_of_running hm hh hr hb

/-- Every host move keeps the invariant. -/
theorem hostMove_stateInv {m : HostMove} {s t : State} (hs : StateInv s) (h : hostMove m s = some t) : StateInv t := by
  cases m with
  | writeKeys k => cases h; exact ⟨hs.mem_wf, hs.reason, hs.blocked_waits, hs.halted_unblocked⟩
  | cycle =>
    cases hx : step s with
    | next u =>
      obtain rfl : u = t := by simpa [hostMove, cycle_of_step hx] using h
      exact stepKeepsTheStateInvariant s u hs hx
    | fault r => simp [hostMove, cycle, hx] at h
    | refused r => simp [hostMove, cycle, hx] at h
  | readPorts => cases h; exact hs
  | reset => cases h; exact stateInv_of_running nil_wf rfl rfl rfl
  | resetAndLoad rom => cases h; exact loadRom_stateInv rom nil_wf rfl rfl rfl
  | speed d => cases h; exact hs

/-- Every sequence of host moves keeps the invariant. -/
theorem hostRun_stateInv {ms : List HostMove} {s t : State} (hs : StateInv s) (h : hostRun ms s = some t) :
    StateInv t := by
  induction ms generalizing s with
  | nil => cases h; exact hs
  | cons m ms ih =>
    obtain ⟨u, hm, hms⟩ := Option.bind_eq_some_iff.1 h
    exact ih (hostMove_stateInv hs hm) hms

/-- Settles O19: construction gives a running core, and the host's moves keep the invariant. -/
theorem reachableStatesMeetTheInvariant : Obligations.ReachableStatesMeetTheInvariant := by
  rintro s ⟨cfg, seed, rom, moves, h⟩
  exact hostRun_stateInv (loadRom_stateInv rom nil_wf rfl rfl rfl) h

/-! ### Canonical memories -/

/-- An address below every listed one reads as its reset contents. -/
theorem get_of_lt {m : Memory} {a : Nat} (h : ∀ c ∈ m, a < c.1) : m.get a = resetByte a := by
  induction m with
  | nil => rfl
  | cons c m ih =>
    obtain ⟨b, v⟩ := c
    have hb : b ≠ a := (h (b, v) (by simp)).ne'
    simpa [Memory.get, hb] using ih fun c hc => h c (by simp [hc])

/-- Two memories read alike at every address of the array. -/
def ReadsAlike (m n : Memory) : Prop := ∀ a, a < memSize → m.get a = n.get a

/-- The first address of a canonical memory does not read as its reset contents, so it is not below every address of a
memory that reads alike. -/
theorem head_not_below {a : Nat} {v : Byte} {m n : Memory} (hm : Memory.wf ((a, v) :: m))
    (h : ReadsAlike ((a, v) :: m) n) : ¬ ∀ c ∈ n, a < c.1 := by
  intro hn
  obtain ⟨ha, hv⟩ := hm.2 (a, v) (by simp)
  have hread := h a ha
  rw [get_of_lt hn] at hread
  exact hv (by simpa [Memory.get] using hread)

/-- The addresses of a canonical memory after the first are above it. -/
theorem below_of_wf {a : Nat} {v : Byte} {m : Memory} (hm : Memory.wf ((a, v) :: m)) : ∀ c ∈ m, a < c.1 :=
  (List.pairwise_cons.1 hm.1).1

/-- A canonical memory without its first entry is canonical. -/
theorem tail_wf {a : Nat} {v : Byte} {m : Memory} (hm : Memory.wf ((a, v) :: m)) : Memory.wf m :=
  ⟨(List.pairwise_cons.1 hm.1).2, fun c hc => hm.2 c (by simp [hc])⟩

/-- Two canonical memories that read alike are the same list: they have the same first entry, and so on. -/
theorem eq_of_readsAlike {m n : Memory} (hm : m.wf) (hn : n.wf) (h : ReadsAlike m n) : m = n := by
  induction m generalizing n with
  | nil =>
    cases n with
    | nil => rfl
    | cons d n => exact absurd (fun c hc => nomatch hc) (head_not_below hn fun a ha => (h a ha).symm)
  | cons c m ih =>
    obtain ⟨a, v⟩ := c
    cases n with
    | nil => exact absurd (fun c hc => nomatch hc) (head_not_below hm h)
    | cons d n =>
      obtain ⟨b, w⟩ := d
      have hab : ¬ a < b := fun hlt => head_not_below hm h fun c hc =>
        (List.mem_cons.1 hc).elim (fun e => e ▸ hlt) fun hc => hlt.trans (below_of_wf hn c hc)
      have hba : ¬ b < a := fun hlt => head_not_below hn (fun a ha => (h a ha).symm) fun c hc =>
        (List.mem_cons.1 hc).elim (fun e => e ▸ hlt) fun hc => hlt.trans (below_of_wf hm c hc)
      obtain rfl : a = b := by omega
      have ha : a < memSize := (hm.2 (a, v) (by simp)).1
      obtain rfl : v = w := by simpa [Memory.get] using h a ha
      rw [ih (tail_wf hm) (tail_wf hn) fun e he => ?_]
      by_cases hea : e = a
      · rw [hea, get_of_lt (below_of_wf hm), get_of_lt (below_of_wf hn)]
      · simpa [Memory.get, Ne.symm hea] using h e he

/-- Settles O20: below MEM_SIZE a read is of the address itself. -/
theorem canonicalMemoriesReadingAlikeAreEqual : Obligations.CanonicalMemoriesReadingAlikeAreEqual := by
  intro m n hm hn h
  refine eq_of_readsAlike hm hn fun a ha => ?_
  simpa [Memory.read, maskAddr, Nat.mod_eq_of_lt ha] using h a ha

end Sys2Proof.Machine
end

section
/-! PROOF. Fetch, reset, ROM load and the fb port (spec/20_memory.md sections 1, 2 and 6, spec/10_state.md section 10,
spec/70_reset_and_hazards.md section 1, spec/44_display.md; O11, O21 to O24 and O31). Every address of an access is
masked, so a fetch reads what the last write to the same masked address stored. -/

namespace Sys2Proof.Machine

/-! ### Fetch -/

/-- Addresses that are equal modulo MEM_SIZE name one byte (R71). -/
theorem memRead_congr (s : State) {a b : Nat} (h : a % 4096 = b % 4096) : memRead s a = memRead s b := by
  simp only [memRead, Memory.read, maskAddr, memSize, h]

/-- The word of two bytes as a number, the first byte high (R73). -/
theorem wordOfBytes_toNat (hi lo : Byte) : (wordOfBytes hi lo).toNat = hi.toNat * 256 + lo.toNat := by
  rw [wordOfBytes, BitVec.toNat_append, ← Nat.shiftLeft_add_eq_or_of_lt lo.isLt, Nat.shiftLeft_eq]

/-- The word fetched where `pc` and `a` name one byte is that of the bytes at `a` and `a + 1`. -/
theorem fetchWord_of_pc {s : State} {a : Nat} (h : s.pc.toNat % 4096 = a % 4096) :
    fetchWord s = wordOfBytes (memRead s a) (memRead s (a + 1)) := by
  rw [fetchWord, memRead_congr s h, memRead_congr s (show (s.pc.toNat + 1) % 4096 = (a + 1) % 4096 by omega)]

/-- Settles O11: the word of the two masked bytes as a number. -/
theorem fetchIsBigEndianAndMasked : Obligations.FetchIsBigEndianAndMasked := by
  intro s
  have hlo : memRead s (s.pc.toNat % 4096 + 1) = memRead s ((s.pc.toNat + 1) % 4096) := memRead_congr s (by omega)
  have hfetch : (fetchWord s).toNat =
      (memRead s (s.pc.toNat % 4096)).toNat * 256 + (memRead s ((s.pc.toNat + 1) % 4096)).toNat := by
    rw [fetchWord_of_pc (Nat.mod_mod _ _).symm, wordOfBytes_toNat, hlo]
  refine ⟨hfetch, fun h => ?_⟩
  rw [hfetch, h, show (s.pc.toNat + 1) % 4096 = 0 by omega]

/-- Settles O31: the stored bytes are read back at the masked addresses that the next fetch reads. -/
theorem storesAreFetchedByTheNextCycle : Obligations.StoresAreFetchedByTheNextCycle := by
  intro x s hI
  refine ⟨fun hx => ?_, ?_⟩
  · obtain ⟨t, ht, hbytes, -, -, -, -, -, -, -, hpc, -⟩ := registerDumpStoresUpToX.2 x s
    refine ⟨t, ht, ?_⟩
    rw [fetchWord_of_pc (a := s.I.toNat) (by rw [hpc, hI])]
    exact congrArg₂ wordOfBytes (hbytes 0 (Fin.zero_le x)) (hbytes 1 hx)
  · obtain ⟨t, ht, hhundreds, htens, -, -, -, -, -, -, -, hpc, -⟩ := bcdStoresThreeDigits.2 x s
    refine ⟨t, ht, ?_⟩
    rw [fetchWord_of_pc (a := s.I.toNat) (by rw [hpc, hI]), wordOfBytes_toNat, ← hhundreds, ← htens]
    rfl

/-! ### Reset -/

/-- Outside the font memory's reset contents are 0. -/
theorem resetByte_outside_font {a : Nat} (h : a < 0x050 ∨ 0x09F < a) : resetByte a = 0 := by
  unfold resetByte
  split
  · have hlen : fontBytes.length ≤ a - fontBase := by
      simp only [fontBase] at *
      have : fontBytes.length = 80 := rfl
      omega
    simp [List.getD, List.getElem?_eq_none hlen]
  · rfl

/-- After a reset memory reads as its reset contents. -/
theorem memRead_reset {a : Nat} (h : a < 4096) : memRead State.reset a = resetByte a := by
  simp [memRead, Memory.read, maskAddr, memSize, Nat.mod_eq_of_lt h, State.reset, Memory.get]

/-- Settles O21: the values are those of the record, and the font is memory's reset contents. -/
theorem resetStateValues : Obligations.ResetStateValues := by
  refine ⟨fun r => ?_, rfl, rfl, fun j => ?_, rfl, rfl, rfl, pixelAt_blankScreen, fun k => ?_, rfl, rfl, rfl, by decide,
    fun a ha => ?_⟩
  · simp [State.reg, State.reset]
  · simp [State.reset]
  · simp [State.reset]
  · rw [memRead_reset (by omega), resetByte_outside_font (by omega)]

/-- Settles O22: a requested reset leaves a running core, which can step. -/
theorem resetIsTheWayOutOfAHalt : Obligations.ResetIsTheWayOutOfAHalt := by
  intro s
  obtain ⟨t, ht⟩ := exec_next (fetchInstr (resetPort s)) (resetPort s)
  exact ⟨rfl, rfl, rfl, fun _ => rfl, rfl, rfl, t, (step_of_not_halted rfl).trans ht⟩

/-! ### ROM load -/

/-- Settles O23: a ROM that fits is one block write at 0x200. -/
theorem romLoadIsVerbatimOrRejected : Obligations.RomLoadIsVerbatimOrRejected := by
  intro rom s
  refine ⟨fun hlen => ⟨memWriteBytes s programBase rom, ?_, fun k hk => ?_, fun a ha hout => ?_, rfl⟩, fun hlen => ?_⟩
  · simp [loadRom, maxRomBytes, memSize, programBase, hlen]
  · exact memRead_memWriteBytes_inside s programBase rom k hk (by simp only [memSize]; omega)
  · refine memRead_memWriteBytes_outside s programBase a rom fun k hk => ?_
    simp only [maskAddr, memSize, programBase]
    omega
  · simp [loadRom, maxRomBytes, memSize, programBase, hlen]

/-! ### The fb port -/

/-- In the row-major order element `py * 64 + px` is pixel `(px, py)` (R220). -/
theorem linearPixel_rowMajor (fb : Framebuffer) (px : Fin 64) (py : Fin 32) (h : py.val * 64 + px.val < 2048) :
    linearPixel fb ⟨py.val * 64 + px.val, h⟩ = pixelAt fb px py := by
  have hrow : (py.val * 64 + px.val) / 64 = py.val := by omega
  have hcol : (py.val * 64 + px.val) % 64 = px.val := by omega
  simp only [linearPixel, screenW, hrow, hcol]
  rfl

/-- Settles O24: the port holds each pixel of the linear order as its word. -/
theorem framebufferPortIsRowMajor : Obligations.FramebufferPortIsRowMajor := by
  intro s px py h
  rw [fbPort, Vector.getElem_ofFn, linearPixel_rowMajor]
  rfl

end Sys2Proof.Machine
end

section
/-! PROOF. The instructions left over, one by one (spec/41_control_flow.md to spec/45_input_timers.md; O33 to O35, O37,
O38, O41, O42, O44 to O46, O48, O52, O53, O56, O57 and O59). Each is read off its equation in Laws/Exec.lean and the
frame of the kind of cycle it is: one that writes registers, `pc`, `I` or a flag alone has its frame above. -/

namespace Sys2Proof.Machine

/-! ### The call stack -/

/-- Settles O33: CALL is the cycle that writes one stack entry, counts up and jumps. -/
theorem callPushesAndJumps : Obligations.CallPushesAndJumps := by
  refine ⟨fun _ => decodeWord_call, fun nnn s => ⟨fun h => ?_, fun h => ⟨_, exec_call_overflow nnn s h, rfl⟩⟩⟩
  refine ⟨_, exec_call nnn s h, zextAddr_toNat nnn, rfl, fun j => ?_, fun _ _ => rfl, rfl, fun _ => rfl, fun _ _ => rfl,
    rfl, closesCycle_endCycle rfl rfl ⟨rfl, rfl, rfl, rfl⟩⟩
  simp [Vector.getElem_set, eq_comm]

/-- Settles O34: RET is the cycle that counts down and jumps to the entry left. -/
theorem returnPopsOrUnderflows : Obligations.ReturnPopsOrUnderflows := by
  refine ⟨fun _ => decodeWord_ret, fun s => ⟨fun h => ?_, fun h => ⟨_, exec_ret_underflow s h, rfl⟩⟩⟩
  exact ⟨_, exec_ret s h, rfl, rfl, rfl, fun _ _ => rfl, rfl, fun _ => rfl, fun _ _ => rfl, rfl,
    closesCycle_endCycle rfl rfl ⟨rfl, rfl, rfl, rfl⟩⟩

/-- Settles O35: RET pops the entry that CALL wrote, and neither touches the entries below it. -/
theorem returnUndoesCall : Obligations.ReturnUndoesCall := by
  intro nnn s h
  obtain ⟨t, ht, -, hSP, hstack, -⟩ := (callPushesAndJumps.2 nnn s).1 h
  obtain ⟨u, hu, hpc, hSP', hstack', -⟩ := (returnPopsOrUnderflows.2 t).1 (by omega)
  have htop : t.SP.val - 1 = s.SP.val := by omega
  refine ⟨t, u, ht, hu, ?_, Fin.ext (by omega), fun j hj => ?_⟩
  · have he := hstack ⟨s.SP.val, h⟩
    simp only [if_true] at he
    rw [hpc, ← he]
    simp only [htop]
    rfl
  · rw [hstack', hstack j, if_neg hj.ne]

/-! ### Jumps and skips -/

/-- Settles O37: both instructions only skip, and registers are equal exactly when their numbers are. -/
theorem skipsOnRegisterComparison : Obligations.SkipsOnRegisterComparison := by
  refine ⟨fun _ => decodeWord_seVxVy, fun _ => decodeWord_sneVxVy, fun x y s => ⟨?_, ?_⟩⟩
  · simpa [BitVec.toNat_inj] using exec_skipIf_frame (exec_seVxVy x y s)
  · simpa [BitVec.toNat_inj] using exec_skipIf_frame (exec_sneVxVy x y s)

/-- An address and a byte add up without overflow: the sum is below 2^16 (R160). -/
theorem zextAddr_add_zextByte_toNat (nnn : Addr12) (b : Byte) :
    (zextAddr nnn + zextByte b).toNat = nnn.toNat + b.toNat := by
  have hn := nnn.isLt
  have hb := b.isLt
  rw [add_zextByte_toNat, zextAddr_toNat]
  omega

/-- Settles O38: JP V0 is the cycle that writes the sum to `pc`, and the next fetch masks it. -/
theorem jumpWithOffsetIsUnmasked : Obligations.JumpWithOffsetIsUnmasked := by
  refine ⟨fun _ => decodeWord_jpV0Addr, fun nnn s => ?_⟩
  have hpc := zextAddr_add_zextByte_toNat nnn (s.reg 0)
  refine ⟨_, exec_jpV0Addr nnn s, hpc, registerFrame_endCycle_setPc s _, closesCycle_endCycle_setPc s _, ?_⟩
  rw [fetchWord_of_pc (a := nnn.toNat + (s.reg 0).toNat) (congrArg (· % 4096) hpc)]
  exact congrArg₂ wordOfBytes (memRead_congr s (Nat.mod_mod _ _).symm) (memRead_congr s (Nat.mod_mod _ _).symm)

/-! ### Arithmetic -/

/-- Settles O41: ADD Vx, byte is the cycle that writes the sum to one register. -/
theorem addByteWithoutCarry : Obligations.AddByteWithoutCarry := by
  refine ⟨fun _ => decodeWord_addVxByte, fun x kk s => ?_⟩
  obtain ⟨t, ht, hsum, hframe⟩ := exec_setReg_frame (exec_addVxByte x kk s)
  exact ⟨t, ht, hsum ▸ BitVec.toNat_add (s.reg x) kk, hframe⟩

/-- Settles O42: each is the cycle that writes the bitwise operation to one register. -/
theorem logicIsBitwise : Obligations.LogicIsBitwise := by
  refine ⟨fun _ => decodeWord_orVxVy, fun _ => decodeWord_andVxVy, fun _ => decodeWord_xorVxVy,
    fun x y s => ⟨?_, ?_, ?_⟩⟩
  · obtain ⟨t, ht, hv, hframe, hclose⟩ := exec_setReg_frame (exec_orVxVy x y s)
    exact ⟨t, ht, hframe, hclose, fun k => hv ▸ BitVec.getLsbD_or⟩
  · obtain ⟨t, ht, hv, hframe, hclose⟩ := exec_setReg_frame (exec_andVxVy x y s)
    exact ⟨t, ht, hframe, hclose, fun k => hv ▸ BitVec.getLsbD_and⟩
  · obtain ⟨t, ht, hv, hframe, hclose⟩ := exec_setReg_frame (exec_xorVxVy x y s)
    exact ⟨t, ht, hframe, hclose, fun k => hv ▸ BitVec.getLsbD_xor⟩

/-- A flag as a number. -/
theorem flagByte_toNat (b : Bool) : (flagByte b).toNat = b.toNat := by
  cases b <;> rfl

/-- The no-borrow flag as a number: 1 exactly when the minuend is strictly greater. -/
theorem greaterFlag_toNat (a b : Byte) : (greaterFlag a b).toNat = if b.toNat < a.toNat then 1 else 0 := by
  rw [greaterFlag, flagByte_toNat]
  split
  · next h => simp [h]
  · next h => simp [h]

/-- A difference is taken modulo 256. -/
theorem sub_toNat (a b : Byte) : (a - b).toNat = (a.toNat + 256 - b.toNat) % 256 := by
  have hb := b.isLt
  rw [BitVec.toNat_sub]
  omega

/-- Settles O44: both are the cycle that writes the no-borrow flag and then the difference. -/
theorem subtractSetsStrictNoBorrow : Obligations.SubtractSetsStrictNoBorrow := by
  refine ⟨fun _ => decodeWord_subVxVy, fun _ => decodeWord_subnVxVy, fun x y s => ⟨?_, ?_⟩⟩
  · obtain ⟨t, ht, hv, hf, hframe⟩ := exec_writeFlagThenResult_frame (exec_subVxVy x y s)
    exact ⟨t, ht, hv ▸ sub_toNat (s.reg x) (s.reg y), fun hVF => hf hVF ▸ greaterFlag_toNat (s.reg x) (s.reg y), hframe⟩
  · obtain ⟨t, ht, hv, hf, hframe⟩ := exec_writeFlagThenResult_frame (exec_subnVxVy x y s)
    exact ⟨t, ht, hv ▸ sub_toNat (s.reg y) (s.reg x), fun hVF => hf hVF ▸ greaterFlag_toNat (s.reg y) (s.reg x), hframe⟩

/-- The source of a shift is the one that the variant names (R179, R181). -/
theorem shiftSource_eq {x y : Reg} {s : State} {src : Byte} (hA : s.cfg.shift = .A → src = s.reg x)
    (hB : s.cfg.shift = .B → src = s.reg y) : shiftSource x y s = src := by
  cases h : s.cfg.shift with
  | A => simp [shiftSource, h, hA h]
  | B => simp [shiftSource, h, hB h]

/-- The bit shifted out to the right is the remainder of the halving. -/
theorem shiftedOutRight_toNat (b : Byte) : (shiftedOutRight b).toNat = b.toNat % 2 := by
  rw [shiftedOutRight, flagByte_toNat, BitVec.getLsbD, Nat.testBit_zero]
  obtain h | h := Nat.mod_two_eq_zero_or_one b.toNat <;> simp [h]

/-- The bit shifted out to the left is the carry of the doubling. -/
theorem shiftedOutLeft_toNat (b : Byte) : (shiftedOutLeft b).toNat = b.toNat / 128 := by
  have hb := b.isLt
  rw [shiftedOutLeft, flagByte_toNat, BitVec.getLsbD, Nat.testBit_eq_decide_div_mod_eq]
  obtain h | h : b.toNat / 128 = 0 ∨ b.toNat / 128 = 1 := by omega
  · simp [h]
  · simp [h]

/-- Settles O45: both are the cycle that writes the bit shifted out and then the shifted source. -/
theorem shiftsMoveOneBitOut : Obligations.ShiftsMoveOneBitOut := by
  refine ⟨fun _ => decodeWord_shrVxVy, fun _ => decodeWord_shlVxVy, fun x y s src hA hB => ?_⟩
  have hsrc : shiftSource x y s = src := shiftSource_eq hA hB
  refine ⟨?_, ?_⟩
  · obtain ⟨t, ht, hv, hf, hframe⟩ := exec_writeFlagThenResult_frame (exec_shrVxVy x y s)
    refine ⟨t, ht, ?_, fun hVF => ?_, hframe⟩
    · rw [hv, hsrc, BitVec.toNat_ushiftRight, Nat.shiftRight_eq_div_pow, Nat.pow_one]
    · rw [hf hVF, hsrc, shiftedOutRight_toNat]
  · obtain ⟨t, ht, hv, hf, hframe⟩ := exec_writeFlagThenResult_frame (exec_shlVxVy x y s)
    refine ⟨t, ht, ?_, fun hVF => ?_, hframe⟩
    · rw [hv, hsrc, BitVec.toNat_shiftLeft, Nat.shiftLeft_eq, Nat.pow_one]
    · rw [hf hVF, hsrc, shiftedOutLeft_toNat]

/-- Settles O46: RND is the cycle that draws once and writes the byte under the mask. -/
theorem randomDrawsOneByteUnderTheMask : Obligations.RandomDrawsOneByteUnderTheMask := by
  refine ⟨fun _ => decodeWord_rnd, fun x kk s => ?_⟩
  have hv := reg_setReg_same (rngDraw (advance s)).2 x (Config.rngByte s.rngState.seed s.rngState.draws &&& kk)
  refine ⟨_, exec_rnd x kk s, hv, ?_, rfl, rfl, fun r hr => ?_, rfl, ⟨rfl, rfl⟩, fun _ => rfl, fun _ _ => rfl,
    closesCycle_endCycle rfl rfl ⟨rfl, rfl, rfl, rfl⟩⟩
  · rw [reg_endCycle, hv, BitVec.toNat_and]
    exact Nat.and_le_right
  · exact reg_setReg_ne _ x r _ (by simpa using hr)

/-! ### Index and memory -/

/-- The glyph of digit `d` stands at `0x050 + 5 d`. -/
theorem glyphAddr_toNat (d : Nibble) : (glyphAddr d).toNat = 0x050 + 5 * d.val := by
  have hd := d.isLt
  simp only [glyphAddr, fontBase, BitVec.toNat_ofNat]
  omega

/-- Settles O48: LD F is the cycle that writes the glyph's address to `I`, or halt entry. -/
theorem fontDigitSelectsGlyph : Obligations.FontDigitSelectsGlyph := by
  refine ⟨fun _ => decodeWord_ldFVx, fun x s => ⟨fun h => ?_, fun h => ⟨_, exec_ldFVx_halt x s h, rfl⟩⟩⟩
  have hd : (s.reg x).toNat < 16 := by omega
  obtain ⟨t, ht, hI, hframe⟩ := exec_setI_frame (exec_ldFVx x s ⟨_, hd⟩ rfl)
  exact ⟨t, ht, hI ▸ glyphAddr_toNat ⟨_, hd⟩, hframe⟩

/-- Settles O52: the load reads the bytes that the dump stored, and both set `I` alike. -/
theorem dumpThenLoadGivesTheRegistersBack : Obligations.DumpThenLoadGivesTheRegistersBack := by
  intro x s zeroed
  obtain ⟨t, ht, hstored, -, -, hI, -, -, -, -, -, -, -, -, hcfg, -⟩ := registerDumpStoresUpToX.2 x s
  obtain ⟨u, hu, hloaded, habove, -, hI', -⟩ := registerLoadReadsUpToX.2 x { t with V := zeroed, I := s.I }
  refine ⟨t, u, ht, hu, fun r hr => ?_, habove, fun h => ⟨hI h, BitVec.eq_of_toNat_eq ?_⟩⟩
  · exact (hloaded r hr).trans (hstored r hr)
  · rw [hI h]
    exact hI' (hcfg ▸ h)

/-! ### The screen -/

/-- Settles O53: CLS is the cycle that blanks the screen. -/
theorem clearScreenTurnsEveryPixelOff : Obligations.ClearScreenTurnsEveryPixelOff :=
  ⟨fun _ => decodeWord_cls, fun s => ⟨_, exec_cls s, pixelAt_blankScreen, fun _ _ => rfl, rfl, ⟨rfl, rfl⟩, fun _ => rfl,
    rfl, closesCycle_endCycle rfl rfl ⟨rfl, rfl, rfl, rfl⟩, _, exec_cls _, rfl⟩⟩

/-! ### Keys and timers -/

/-- Settles O56: both instructions only skip, on the level of the key, or are halt entry. -/
theorem keySkipsReadTheLevel : Obligations.KeySkipsReadTheLevel := by
  refine ⟨fun _ => decodeWord_skp, fun _ => decodeWord_sknp, fun x s => ⟨fun k hk => ⟨?_, ?_⟩, fun h =>
    ⟨⟨_, exec_skp_halt x s h, rfl⟩, ⟨_, exec_sknp_halt x s h, rfl⟩⟩⟩⟩
  · exact exec_skipIf_frame (exec_skp x s k hk)
  · obtain ⟨t, ht, hframe, hclose⟩ := exec_skipIf_frame (exec_sknp x s k hk)
    have hpc : (if (!s.key[k]) = true then s.pc + 4 else s.pc + 2) =
        if s.key[k] = true then s.pc + 2 else s.pc + 4 := by
      cases s.key[k] <;> rfl
    exact ⟨t, ht, hframe, hpc ▸ hclose⟩

/-- The lowest pressed key is found. -/
theorem lowestKey_eq_some {s : State} {k : Nibble} (hk : s.key[k] = true) (hlow : ∀ j, j < k → s.key[j] = false) :
    lowestKey s = some k := by
  cases h : lowestKey s with
  | none => simp [lowestKey_none.1 h k] at hk
  | some j =>
    obtain ⟨hj, hlow'⟩ := lowestKey_some h
    obtain hlt | rfl | hlt := lt_trichotomy j k
    · simp [hlow j hlt] at hj
    · rfl
    · simp [hlow' k hlt] at hk

/-- Settles O57: with a key pressed it is the cycle that writes its index to one register, else one that rewinds. -/
theorem waitForKeyStoresLowestOrRepeats : Obligations.WaitForKeyStoresLowestOrRepeats := by
  refine ⟨fun _ => decodeWord_ldVxK, fun x s => ⟨fun k hk hlow => ?_, fun hnone => ?_⟩⟩
  · obtain ⟨t, ht, hv, hframe⟩ := exec_setReg_frame (exec_ldVxK x s k (lowestKey_eq_some hk hlow))
    have hfit : k.val < 2 ^ 8 := by omega
    exact ⟨t, ht, by rw [hv, BitVec.toNat_ofNat, Nat.mod_eq_of_lt hfit], hframe⟩
  · exact ⟨_, exec_ldVxK_waits x s (lowestKey_none.2 hnone), BitVec.add_sub_cancel s.pc 2, rfl,
      ⟨countdown_toNat s.DT, countdown_toNat s.ST⟩, registerFrame_endCycle_advance s, ⟨rfl, rfl, rfl, rfl⟩⟩

/-- Settles O59: the tick that closes the cycle counts the written timer down from the value just written. -/
theorem timerWritesAreTickedAtOnce : Obligations.TimerWritesAreTickedAtOnce :=
  ⟨fun _ => decodeWord_ldDtVx, fun _ => decodeWord_ldStVx, fun x s =>
    ⟨⟨_, exec_ldDtVx x s, countdown_toNat (s.reg x), countdown_toNat s.ST, rfl, rfl, ⟨rfl, rfl, rfl, rfl⟩,
      registerFrame_endCycle_advance s⟩,
     ⟨_, exec_ldStVx x s, countdown_toNat (s.reg x), countdown_toNat s.DT, rfl, rfl, ⟨rfl, rfl, rfl, rfl⟩,
      registerFrame_endCycle_advance s⟩⟩⟩

end Sys2Proof.Machine
end

section
/-! PROOF. The sprite blitter against the sprite as a set of pixels (spec/44_display.md rules R222 and R223; O54 and
O55). `Flips P a b` says that drawing took the screen and collision `a` to `b` by flipping exactly the pixels of the set
`P`, each once, with a collision where one of them was on. It holds of one pixel, and of one drawing after another when
their sets are disjoint; the columns of a row and the rows of a sprite are disjoint because they wrap to different
pixels. -/

namespace Sys2Proof.Machine

/-! ### Flipping a set of pixels -/

/-- A set of pixels. -/
abbrev PixelSet := Fin 64 → Fin 32 → Prop

/-- From `a` to `b` exactly the pixels in `P` are flipped, and a collision is noted where one of them was on. -/
structure Flips (P : PixelSet) (a b : Framebuffer × Bool) : Prop where
  hit : ∀ px py, P px py → pixelAt b.1 px py = !(pixelAt a.1 px py)
  miss : ∀ px py, ¬ P px py → pixelAt b.1 px py = pixelAt a.1 px py
  collision : b.2 = true ↔ a.2 = true ∨ ∃ px py, P px py ∧ pixelAt a.1 px py = true

/-- Drawing nothing flips no pixel. -/
theorem Flips.refl {P : PixelSet} (hP : ∀ px py, ¬ P px py) (a : Framebuffer × Bool) : Flips P a a where
  hit px py h := absurd h (hP px py)
  miss _ _ _ := rfl
  collision := by simp [hP]

/-- Only the pixels of a set matter. -/
theorem Flips.congr {P Q : PixelSet} {a b : Framebuffer × Bool} (h : Flips P a b)
    (hPQ : ∀ px py, P px py ↔ Q px py) : Flips Q a b := by
  obtain rfl : P = Q := funext fun px => funext fun py => propext (hPQ px py)
  exact h

/-- Drawing two disjoint sets one after the other flips both. -/
theorem Flips.trans {P Q : PixelSet} {a b c : Framebuffer × Bool} (h : Flips P a b) (h' : Flips Q b c)
    (hdisj : ∀ px py, P px py → ¬ Q px py) : Flips (fun px py => P px py ∨ Q px py) a c where
  hit px py := by
    rintro (hP | hQ)
    · rw [h'.miss px py (hdisj px py hP), h.hit px py hP]
    · rw [h'.hit px py hQ, h.miss px py fun hP => hdisj px py hP hQ]
  miss px py hn := by
    rw [h'.miss px py fun hQ => hn (.inr hQ), h.miss px py fun hP => hn (.inl hP)]
  collision := by
    have hQ : (∃ px py, Q px py ∧ pixelAt b.1 px py = true) ↔ ∃ px py, Q px py ∧ pixelAt a.1 px py = true :=
      exists_congr fun px => exists_congr fun py => and_congr_right fun hQ => by
        rw [h.miss px py fun hP => hdisj px py hP hQ]
    rw [h'.collision, h.collision, hQ, or_assoc]
    simp only [or_and_right, exists_or]

/-- One step of the blitter flips its pixel. -/
theorem flips_blitPixel (px : Fin 64) (py : Fin 32) (a : Framebuffer × Bool) :
    Flips (fun qx qy => qx = px ∧ qy = py) a (blitPixel px py a) where
  hit := by
    rintro qx qy ⟨rfl, rfl⟩
    rw [blitPixel_pixel, if_pos ⟨rfl, rfl⟩]
  miss qx qy h := by rw [blitPixel_pixel, if_neg h]
  collision := by simp

/-! ### The columns of a row and the rows of a sprite -/

/-- The pixels of one sprite row: the 1 bits of its byte in the columns `cols`, each wrapped on its own. -/
def RowPixels (ox py : Nat) (b : Byte) (cols : List Nat) : PixelSet := fun qx qy =>
  ∃ col ∈ cols, spriteBit b col = true ∧ qx = wrapX (ox + col) ∧ qy = wrapY py

/-- Columns of one row that wrap to one pixel are the same column. -/
theorem wrapX_inj {ox c d : Nat} (hc : c < 64) (hd : d < 64) (h : wrapX (ox + c) = wrapX (ox + d)) : c = d := by
  have hv := congrArg Fin.val h
  simp only [wrapX_val] at hv
  omega

/-- Rows of one sprite that wrap to one pixel are the same row. -/
theorem wrapY_inj {oy r q : Nat} (hr : r < 32) (hq : q < 32) (h : wrapY (oy + r) = wrapY (oy + q)) : r = q := by
  have hv := congrArg Fin.val h
  simp only [wrapY_val] at hv
  omega

/-- One column of a row flips its pixel where its bit is 1. -/
theorem flips_column (ox py : Nat) (b : Byte) (col : Nat) (a : Framebuffer × Bool) :
    Flips (RowPixels ox py b [col]) a
      (if spriteBit b col then blitPixel (wrapX (ox + col)) (wrapY py) a else a) := by
  split
  · next h => exact (flips_blitPixel _ _ a).congr fun qx qy => by simp [RowPixels, h]
  · next h => exact .refl (by simp [RowPixels, h]) a

/-- Drawing distinct columns of a row flips the row's pixels in them. -/
theorem flips_blitCols (ox py : Nat) (b : Byte) {cols : List Nat} (hnd : cols.Nodup) (hlt : ∀ c ∈ cols, c < 64)
    (a : Framebuffer × Bool) : Flips (RowPixels ox py b cols) a (blitCols ox py b cols a) := by
  induction cols generalizing a with
  | nil => exact .refl (by simp [RowPixels]) a
  | cons col cols ih =>
    obtain ⟨hcol, hnd⟩ := List.nodup_cons.1 hnd
    have hrest := ih hnd (fun c hc => hlt c (by simp [hc]))
      (if spriteBit b col then blitPixel (wrapX (ox + col)) (wrapY py) a else a)
    refine ((flips_column ox py b col a).trans hrest ?_).congr fun qx qy => ?_
    · rintro qx qy ⟨c, hc, -, rfl, -⟩ ⟨d, hd, -, hx, -⟩
      obtain rfl := List.mem_singleton.1 hc
      obtain rfl := wrapX_inj (hlt c (by simp)) (hlt d (by simp [hd])) hx
      exact hcol hd
    · simp [RowPixels]

/-- The pixels of a sprite: the rows of its bytes, top to bottom from `oy`, each wrapped on its own. -/
def SpritePixels (ox oy : Nat) (bs : List Byte) : PixelSet := fun qx qy =>
  ∃ row, ∃ h : row < bs.length, RowPixels ox (oy + row) bs[row] [0, 1, 2, 3, 4, 5, 6, 7] qx qy

/-- The pixels of a sprite are those of its first row and those of the sprite below it. -/
theorem spritePixels_cons (ox oy : Nat) (b : Byte) (bs : List Byte) (qx : Fin 64) (qy : Fin 32) :
    SpritePixels ox oy (b :: bs) qx qy ↔
      RowPixels ox oy b [0, 1, 2, 3, 4, 5, 6, 7] qx qy ∨ SpritePixels ox (oy + 1) bs qx qy := by
  constructor
  · rintro ⟨row, hrow, h⟩
    cases row with
    | zero => exact .inl h
    | succ row => exact .inr ⟨row, Nat.lt_of_succ_lt_succ hrow, by rwa [Nat.add_assoc, Nat.add_comm 1]⟩
  · rintro (h | ⟨row, hrow, h⟩)
    · exact ⟨0, Nat.succ_pos _, h⟩
    · exact ⟨row + 1, Nat.succ_lt_succ hrow, by rwa [Nat.add_assoc, Nat.add_comm 1] at h⟩

/-- Drawing a sprite no taller than the screen flips its pixels. -/
theorem flips_blitRows (ox oy : Nat) {bs : List Byte} (hlen : bs.length ≤ 32) (a : Framebuffer × Bool) :
    Flips (SpritePixels ox oy bs) a (blitRows ox oy bs a) := by
  induction bs generalizing oy a with
  | nil => exact .refl (by simp [SpritePixels]) a
  | cons b bs ih =>
    rw [List.length_cons] at hlen
    have hfirst := flips_blitCols ox oy b (cols := [0, 1, 2, 3, 4, 5, 6, 7]) (by decide) (by decide) a
    refine (hfirst.trans (ih (oy + 1) (by omega) _) ?_).congr fun qx qy => (spritePixels_cons ox oy b bs qx qy).symm
    rintro qx qy ⟨c, -, -, -, hy⟩ ⟨row, hrow, d, -, -, -, hy'⟩
    have hrows : 0 = row + 1 := wrapY_inj (oy := oy) (by omega) (by omega)
      (hy.symm.trans (hy'.trans (by rw [Nat.add_assoc, Nat.add_comm 1])))
    omega

/-! ### DRW -/

/-- A byte of a block read is the byte at its masked address. -/
theorem getElem_readBytes (m : Memory) (a n k : Nat) (hk : k < (m.readBytes a n).length) :
    (m.readBytes a n)[k] = m.read (a + k) := by
  induction n generalizing a k with
  | zero => simp [Memory.readBytes] at hk
  | succ n ih =>
    cases k with
    | zero => rfl
    | succ k =>
      rw [readBytes_length] at hk
      have hk' : k < (m.readBytes (a + 1) n).length := by rw [readBytes_length]; omega
      rw [← Nat.add_assoc, Nat.add_right_comm, ← ih (a + 1) k hk']
      rfl

/-- The columns of a sprite row. -/
theorem mem_spriteCols {c : Nat} : c ∈ [0, 1, 2, 3, 4, 5, 6, 7] ↔ c < 8 := by
  simp only [List.mem_cons, List.not_mem_nil, or_false]
  omega

/-- The sprite of DRW hits the pixels of the `n` bytes from `I` drawn at `(Vx, Vy)` (R222). -/
theorem spriteHits_iff (x y : Reg) (n : Nibble) (s : State) (px : Fin 64) (py : Fin 32) :
    SpritePixels (s.reg x).toNat (s.reg y).toNat (s.mem.readBytes (indexBase s) n.val) px py ↔
      SpriteHits x y n s px py := by
  constructor
  · rintro ⟨row, hrow, col, hcol, hbit, rfl, rfl⟩
    rw [getElem_readBytes] at hbit
    exact ⟨row, readBytes_length s.mem _ n.val ▸ hrow, col, mem_spriteCols.1 hcol, rfl, rfl, hbit⟩
  · rintro ⟨row, hrow, col, hcol, hx, hy, hbit⟩
    refine ⟨row, (readBytes_length s.mem _ n.val).symm ▸ hrow, col, mem_spriteCols.2 hcol, ?_, Fin.ext hx, Fin.ext hy⟩
    rw [getElem_readBytes]
    exact hbit

/-- DRW flips the pixels that its sprite hits, starting without a collision. -/
theorem flips_drawSprite (x y : Reg) (n : Nibble) (s : State) :
    Flips (SpriteHits x y n s) (s.fb, false) (drawSprite x y n s) := by
  have hlen : (s.mem.readBytes (indexBase s) n.val).length ≤ 32 := by
    have := n.isLt
    rw [readBytes_length]
    omega
  exact (flips_blitRows _ _ hlen _).congr (spriteHits_iff x y n s)

/-- An instruction that only writes the screen and then VF leaves them there and keeps the rest. -/
theorem exec_screenThenFlag_frame {i : Instr} {s : State} {fb : Framebuffer} {f : Byte}
    (hx : exec i s = .next (endCycle false (State.setReg { advance s with fb := fb } VF f))) :
    ∃ t, exec i s = .next t ∧ t.fb = fb ∧ t.reg VF = f ∧ KeepsRegsBut [VF] s t ∧ KeepsIndex s t ∧ KeepsStack s t ∧
      KeepsMemory s t ∧ KeepsRng s t ∧ ClosesCycle s t (s.pc + 2) := by
  refine ⟨_, hx, rfl, reg_setReg_same _ VF f, fun r hr => ?_, rfl, ⟨rfl, rfl⟩, fun _ => rfl, rfl,
    closesCycle_endCycle rfl rfl ⟨rfl, rfl, rfl, rfl⟩⟩
  exact reg_setReg_ne _ VF r f (by simpa using hr)

/-- Settles O54: DRW is the cycle that writes the drawn screen and the collision, and drawing flips the sprite's
pixels. -/
theorem drawFlipsExactlyTheSpritePixels : Obligations.DrawFlipsExactlyTheSpritePixels := by
  refine ⟨fun _ => decodeWord_drw, fun x y n s => ?_⟩
  obtain ⟨t, ht, hfb, hVF, hframe⟩ := exec_screenThenFlag_frame (exec_drw x y n s)
  obtain ⟨hit, miss, hcoll⟩ := flips_drawSprite x y n s
  simp only [Bool.false_eq_true, false_or] at hcoll
  refine ⟨t, ht, hfb ▸ hit, hfb ▸ miss, fun hon => ?_, fun hoff => ?_, hframe⟩
  · rw [hVF, hcoll.2 hon, flagByte_true]
  · have hnone : (drawSprite x y n s).2 = false := by
      rw [← Bool.not_eq_true, hcoll]
      rintro ⟨px, py, hP, hpx⟩
      simp [hoff px py hP] at hpx
    rw [hVF, hnone, flagByte_false]

/-- A cycle that keeps the coordinates, `I` and memory leaves the sprite on the same pixels. -/
theorem spriteHits_congr {x y : Reg} {n : Nibble} {s t : State} (hx : t.reg x = s.reg x) (hy : t.reg y = s.reg y)
    (hI : KeepsIndex s t) (hm : KeepsMemory s t) (px : Fin 64) (py : Fin 32) :
    SpriteHits x y n t px py ↔ SpriteHits x y n s px py := by
  rw [KeepsIndex] at hI
  simp only [SpriteHits, hx, hy, hI, hm _]

/-- Settles O55: the second draw hits the same pixels, whose values the first one has inverted. -/
theorem drawingTwiceRestoresTheScreen : Obligations.DrawingTwiceRestoresTheScreen := by
  intro x y n s hx hy
  obtain ⟨t, ht, hhit, hmiss, -, -, hregs, hI, -, hmem, -⟩ := drawFlipsExactlyTheSpritePixels.2 x y n s
  obtain ⟨u, hu, hhit', hmiss', hon, hoff, -⟩ := drawFlipsExactlyTheSpritePixels.2 x y n t
  have hsame := spriteHits_congr (n := n) (hregs x (by simpa using hx)) (hregs y (by simpa using hy)) hI hmem
  refine ⟨t, u, ht, hu, fun px py => ?_, ?_, fun hall => hoff fun px py hP => ?_⟩
  · by_cases hP : SpriteHits x y n s px py
    · rw [hhit' px py ((hsame px py).2 hP), hhit px py hP, Bool.not_not]
    · rw [hmiss' px py (mt (hsame px py).1 hP), hmiss px py hP]
  · rintro ⟨px, py, hP, hpx⟩
    exact hon ⟨px, py, (hsame px py).2 hP, by rw [hhit px py hP, hpx]; rfl⟩
  · have hP' := (hsame px py).1 hP
    rw [hhit px py hP', hall px py hP']
    rfl

end Sys2Proof.Machine
end
